-- ==== Sys2Proof/Word.lean ====
section
/-! DEFINITION. The word types of the core (00_scope section 4, 30_encoding R91). Every value is unsigned. -/

namespace Sys2Proof

/-- A 4-bit field of the instruction word: a register number X or Y, or the literal N (R91). -/
abbrev Nibble := BitVec 4

/-- A memory byte, a general register, a timer, an RPL byte or the literal NN (R20, R32, R39, R72, R91). -/
abbrev Byte := BitVec 8

/-- The 12-bit literal address NNN (R91). -/
abbrev Addr12 := BitVec 12

/-- The instruction word, PC, I, SP, a stack entry or the opcode latch (R23, R27, R29, R30, R42, R90). -/
abbrev Word := BitVec 16

end Sys2Proof
end

