-- ==== Sys2Proof/Syntax.lean ====
section
/-! DEFINITION. The instruction set: one constructor per row of spec/opcode_table.json (R94), in the table's order, and one
for the table's last row, a word no other row matches (R95). -/

namespace Sys2Proof

/-- One instruction. `x` and `y` are register numbers, `n`, `nn` and `nnn` the literals of R91. -/
inductive Instr where
  /-- 00E0 CLS (R130) -/
  | cls
  /-- 00EE RET (R132) -/
  | ret
  /-- 00FF HIGH (R133) -/
  | high
  /-- 00FE LOW (R135) -/
  | low
  /-- 00FD EXIT (R136) -/
  | exit
  /-- 00FB SCR (R137) -/
  | scr
  /-- 00FC SCL (R138) -/
  | scl
  /-- 00CN SCD N (R139) -/
  | scd (n : Nibble)
  /-- 1NNN JP NNN (R150) -/
  | jp (nnn : Addr12)
  /-- 2NNN CALL NNN (R152) -/
  | call (nnn : Addr12)
  /-- 3XNN SE Vx, NN (R153) -/
  | seImm (x : Nibble) (nn : Byte)
  /-- 4XNN SNE Vx, NN (R154) -/
  | sneImm (x : Nibble) (nn : Byte)
  /-- 5XY0 SE Vx, Vy (R155) -/
  | seReg (x y : Nibble)
  /-- 9XY0 SNE Vx, Vy (R156) -/
  | sneReg (x y : Nibble)
  /-- 6XNN LD Vx, NN (R170) -/
  | ldImm (x : Nibble) (nn : Byte)
  /-- 7XNN ADD Vx, NN (R171) -/
  | addImm (x : Nibble) (nn : Byte)
  /-- 8XY0 LD Vx, Vy (R173) -/
  | ldReg (x y : Nibble)
  /-- 8XY1 OR Vx, Vy (R174) -/
  | orReg (x y : Nibble)
  /-- 8XY2 AND Vx, Vy (R175) -/
  | andReg (x y : Nibble)
  /-- 8XY3 XOR Vx, Vy (R176) -/
  | xorReg (x y : Nibble)
  /-- 8XY4 ADD Vx, Vy (R177) -/
  | addReg (x y : Nibble)
  /-- 8XY5 SUB Vx, Vy (R180) -/
  | sub (x y : Nibble)
  /-- 8XY6 SHR Vx, Vy (R181) -/
  | shr (x y : Nibble)
  /-- 8XY7 SUBN Vx, Vy (R182) -/
  | subn (x y : Nibble)
  /-- 8XYE SHL Vx, Vy (R183) -/
  | shl (x y : Nibble)
  /-- ANNN LD I, NNN (R200) -/
  | ldI (nnn : Addr12)
  /-- BNNN JP V0, NNN (R201) -/
  | jpV0 (nnn : Addr12)
  /-- CXNN RND Vx, NN (R202) -/
  | rnd (x : Nibble) (nn : Byte)
  /-- DXYN DRW Vx, Vy, N (R210) -/
  | drw (x y n : Nibble)
  /-- EX9E SKP Vx (R230) -/
  | skp (x : Nibble)
  /-- EXA1 SKNP Vx (R231) -/
  | sknp (x : Nibble)
  /-- FX07 LD Vx, DT (R240) -/
  | ldVxDt (x : Nibble)
  /-- FX0A LD Vx, K (R241) -/
  | ldVxK (x : Nibble)
  /-- FX15 LD DT, Vx (R242) -/
  | ldDtVx (x : Nibble)
  /-- FX18 LD ST, Vx (R243) -/
  | ldStVx (x : Nibble)
  /-- FX1E ADD I, Vx (R248) -/
  | addI (x : Nibble)
  /-- FX29 LD F, Vx (R249) -/
  | ldF (x : Nibble)
  /-- FX30 LD HF, Vx (R250) -/
  | ldHf (x : Nibble)
  /-- FX33 LD B, Vx (R251) -/
  | ldB (x : Nibble)
  /-- FX55 LD [I], Vx (R252) -/
  | ldMemVx (x : Nibble)
  /-- FX65 LD Vx, [I] (R253) -/
  | ldVxMem (x : Nibble)
  /-- FX75 LD R, Vx (R254) -/
  | ldRVx (x : Nibble)
  /-- FX85 LD Vx, R (R255) -/
  | ldVxR (x : Nibble)
  /-- A word no other row matches (R95, R116) -/
  | unrecognised (w : Word)
  deriving DecidableEq, Repr

end Sys2Proof
end

