-- ==== Sys2Proof/WellFormed.lean ====
section
/-! DEFINITION. The opcode map as the spec prints it (R94), and which instruction terms stand for a word.

Every operand has exactly its field's width, so the one check is that `unrecognised w` holds a word that no row of the map
matches (R95). -/

namespace Sys2Proof

/-- One row of the opcode map: the words `w` with `w &&& mask = match` (R94). -/
structure OpcodeRow where
  mask : Word
  value : Word
  deriving DecidableEq, Repr

/-- The word matches the row's pattern: every nibble the pattern writes as a digit equals that digit (R93). -/
def OpcodeRow.accepts (r : OpcodeRow) (w : Word) : Bool := (w &&& r.mask) == r.value

/-- The rows of groups 0 to 4 of R94. -/
def opcodeRowsFlow : List OpcodeRow :=
  [⟨0xFFFF, 0x00E0⟩, ⟨0xFFFF, 0x00EE⟩, ⟨0xFFFF, 0x00FF⟩, ⟨0xFFFF, 0x00FE⟩, ⟨0xFFFF, 0x00FD⟩, ⟨0xFFFF, 0x00FB⟩,
   ⟨0xFFFF, 0x00FC⟩, ⟨0xFFF0, 0x00C0⟩, ⟨0xF000, 0x1000⟩, ⟨0xF000, 0x2000⟩, ⟨0xF000, 0x3000⟩, ⟨0xF000, 0x4000⟩,
   ⟨0xF00F, 0x5000⟩, ⟨0xF00F, 0x9000⟩]

/-- The rows of 6XNN, 7XNN and group 8 of R94. -/
def opcodeRowsAlu : List OpcodeRow :=
  [⟨0xF000, 0x6000⟩, ⟨0xF000, 0x7000⟩, ⟨0xF00F, 0x8000⟩, ⟨0xF00F, 0x8001⟩, ⟨0xF00F, 0x8002⟩, ⟨0xF00F, 0x8003⟩,
   ⟨0xF00F, 0x8004⟩, ⟨0xF00F, 0x8005⟩, ⟨0xF00F, 0x8006⟩, ⟨0xF00F, 0x8007⟩, ⟨0xF00F, 0x800E⟩]

/-- The rows of groups A to F of R94. -/
def opcodeRowsRest : List OpcodeRow :=
  [⟨0xF000, 0xA000⟩, ⟨0xF000, 0xB000⟩, ⟨0xF000, 0xC000⟩, ⟨0xF000, 0xD000⟩, ⟨0xF0FF, 0xE09E⟩, ⟨0xF0FF, 0xE0A1⟩,
   ⟨0xF0FF, 0xF007⟩, ⟨0xF0FF, 0xF00A⟩, ⟨0xF0FF, 0xF015⟩, ⟨0xF0FF, 0xF018⟩, ⟨0xF0FF, 0xF01E⟩, ⟨0xF0FF, 0xF029⟩,
   ⟨0xF0FF, 0xF030⟩, ⟨0xF0FF, 0xF033⟩, ⟨0xF0FF, 0xF055⟩, ⟨0xF0FF, 0xF065⟩, ⟨0xF0FF, 0xF075⟩, ⟨0xF0FF, 0xF085⟩]

/-- The opcode map of R94, in the spec's order. -/
def opcodeMap : List OpcodeRow := opcodeRowsFlow ++ opcodeRowsAlu ++ opcodeRowsRest

/-- Some row of R94 matches the word. The other words are the unrecognised ones (R95). -/
def recognised (w : Word) : Bool := opcodeMap.any (fun r => r.accepts w)

/-- The row of R94 an instruction stands for; none for an unrecognised word. -/
def Instr.row : Instr → Option OpcodeRow
  | .cls => some ⟨0xFFFF, 0x00E0⟩
  | .ret => some ⟨0xFFFF, 0x00EE⟩
  | .high => some ⟨0xFFFF, 0x00FF⟩
  | .low => some ⟨0xFFFF, 0x00FE⟩
  | .exit => some ⟨0xFFFF, 0x00FD⟩
  | .scr => some ⟨0xFFFF, 0x00FB⟩
  | .scl => some ⟨0xFFFF, 0x00FC⟩
  | .scd _ => some ⟨0xFFF0, 0x00C0⟩
  | .jp _ => some ⟨0xF000, 0x1000⟩
  | .call _ => some ⟨0xF000, 0x2000⟩
  | .seImm _ _ => some ⟨0xF000, 0x3000⟩
  | .sneImm _ _ => some ⟨0xF000, 0x4000⟩
  | .seReg _ _ => some ⟨0xF00F, 0x5000⟩
  | .sneReg _ _ => some ⟨0xF00F, 0x9000⟩
  | .ldImm _ _ => some ⟨0xF000, 0x6000⟩
  | .addImm _ _ => some ⟨0xF000, 0x7000⟩
  | .ldReg _ _ => some ⟨0xF00F, 0x8000⟩
  | .orReg _ _ => some ⟨0xF00F, 0x8001⟩
  | .andReg _ _ => some ⟨0xF00F, 0x8002⟩
  | .xorReg _ _ => some ⟨0xF00F, 0x8003⟩
  | .addReg _ _ => some ⟨0xF00F, 0x8004⟩
  | .sub _ _ => some ⟨0xF00F, 0x8005⟩
  | .shr _ _ => some ⟨0xF00F, 0x8006⟩
  | .subn _ _ => some ⟨0xF00F, 0x8007⟩
  | .shl _ _ => some ⟨0xF00F, 0x800E⟩
  | .ldI _ => some ⟨0xF000, 0xA000⟩
  | .jpV0 _ => some ⟨0xF000, 0xB000⟩
  | .rnd _ _ => some ⟨0xF000, 0xC000⟩
  | .drw _ _ _ => some ⟨0xF000, 0xD000⟩
  | .skp _ => some ⟨0xF0FF, 0xE09E⟩
  | .sknp _ => some ⟨0xF0FF, 0xE0A1⟩
  | .ldVxDt _ => some ⟨0xF0FF, 0xF007⟩
  | .ldVxK _ => some ⟨0xF0FF, 0xF00A⟩
  | .ldDtVx _ => some ⟨0xF0FF, 0xF015⟩
  | .ldStVx _ => some ⟨0xF0FF, 0xF018⟩
  | .addI _ => some ⟨0xF0FF, 0xF01E⟩
  | .ldF _ => some ⟨0xF0FF, 0xF029⟩
  | .ldHf _ => some ⟨0xF0FF, 0xF030⟩
  | .ldB _ => some ⟨0xF0FF, 0xF033⟩
  | .ldMemVx _ => some ⟨0xF0FF, 0xF055⟩
  | .ldVxMem _ => some ⟨0xF0FF, 0xF065⟩
  | .ldRVx _ => some ⟨0xF0FF, 0xF075⟩
  | .ldVxR _ => some ⟨0xF0FF, 0xF085⟩
  | .unrecognised _ => none

/-- The term stands for an instruction word: an `unrecognised w` holds a word no row matches (R95). -/
def Instr.wellFormed : Instr → Bool
  | .unrecognised w => !recognised w
  | _ => true

end Sys2Proof
end

