-- ==== Sys2Proof/Decode.lean ====
section
/-! DEFINITION. The decoder (R91, R93-R95, R112), total on any bytes, and the encoder, both from the encodings of R94. -/

namespace Sys2Proof

/-- `G = w[15:12]` (R91). -/
def fieldG (w : Word) : Nibble := w.extractLsb' 12 4

/-- `X = w[11:8]` (R91, C1). -/
def fieldX (w : Word) : Nibble := w.extractLsb' 8 4

/-- `Y = w[7:4]` (R91, C1). -/
def fieldY (w : Word) : Nibble := w.extractLsb' 4 4

/-- `N = w[3:0]` (R91). -/
def fieldN (w : Word) : Nibble := w.extractLsb' 0 4

/-- `NN = w[7:0]` (R91). -/
def fieldNN (w : Word) : Byte := w.extractLsb' 0 8

/-- `NNN = w[11:0]` (R91). -/
def fieldNNN (w : Word) : Addr12 := w.extractLsb' 0 12

/-- Group 0: the seven whole words and 00CN (R94). -/
def decodeGroup0 (w : Word) : Instr :=
  match (fieldNNN w).toNat with
  | 0x0E0 => .cls
  | 0x0EE => .ret
  | 0x0FF => .high
  | 0x0FE => .low
  | 0x0FD => .exit
  | 0x0FB => .scr
  | 0x0FC => .scl
  | _ => if fieldX w = 0 ∧ fieldY w = 0xC then .scd (fieldN w) else .unrecognised w

/-- Group 8, by its last nibble (R94). -/
def decodeGroup8 (w : Word) : Instr :=
  match (fieldN w).toNat with
  | 0x0 => .ldReg (fieldX w) (fieldY w)
  | 0x1 => .orReg (fieldX w) (fieldY w)
  | 0x2 => .andReg (fieldX w) (fieldY w)
  | 0x3 => .xorReg (fieldX w) (fieldY w)
  | 0x4 => .addReg (fieldX w) (fieldY w)
  | 0x5 => .sub (fieldX w) (fieldY w)
  | 0x6 => .shr (fieldX w) (fieldY w)
  | 0x7 => .subn (fieldX w) (fieldY w)
  | 0xE => .shl (fieldX w) (fieldY w)
  | _ => .unrecognised w

/-- Group E, by its low byte (R94). -/
def decodeGroupE (w : Word) : Instr :=
  match (fieldNN w).toNat with
  | 0x9E => .skp (fieldX w)
  | 0xA1 => .sknp (fieldX w)
  | _ => .unrecognised w

/-- Group F, by its low byte (R94). -/
def decodeGroupF (w : Word) : Instr :=
  match (fieldNN w).toNat with
  | 0x07 => .ldVxDt (fieldX w)
  | 0x0A => .ldVxK (fieldX w)
  | 0x15 => .ldDtVx (fieldX w)
  | 0x18 => .ldStVx (fieldX w)
  | 0x1E => .addI (fieldX w)
  | 0x29 => .ldF (fieldX w)
  | 0x30 => .ldHf (fieldX w)
  | 0x33 => .ldB (fieldX w)
  | 0x55 => .ldMemVx (fieldX w)
  | 0x65 => .ldVxMem (fieldX w)
  | 0x75 => .ldRVx (fieldX w)
  | 0x85 => .ldVxR (fieldX w)
  | _ => .unrecognised w

/-- The instruction a word stands for: "decode the high nibble into one of 16 groups" (R112). Reads nothing but the word. -/
def decodeWord (w : Word) : Instr :=
  match (fieldG w).toNat with
  | 0x0 => decodeGroup0 w
  | 0x1 => .jp (fieldNNN w)
  | 0x2 => .call (fieldNNN w)
  | 0x3 => .seImm (fieldX w) (fieldNN w)
  | 0x4 => .sneImm (fieldX w) (fieldNN w)
  | 0x5 => if fieldN w = 0 then .seReg (fieldX w) (fieldY w) else .unrecognised w
  | 0x6 => .ldImm (fieldX w) (fieldNN w)
  | 0x7 => .addImm (fieldX w) (fieldNN w)
  | 0x8 => decodeGroup8 w
  | 0x9 => if fieldN w = 0 then .sneReg (fieldX w) (fieldY w) else .unrecognised w
  | 0xA => .ldI (fieldNNN w)
  | 0xB => .jpV0 (fieldNNN w)
  | 0xC => .rnd (fieldX w) (fieldNN w)
  | 0xD => .drw (fieldX w) (fieldY w) (fieldN w)
  | 0xE => decodeGroupE w
  | _ => decodeGroupF w

/-- The word of two fetched bytes: big-endian, the high byte at the lower address (R75). -/
def wordOfBytes (hi lo : Byte) : Word := hi ++ lo

/-- Why bytes are no instruction. -/
inductive DecodeError where
  /-- Fewer than the two bytes every instruction has (R90). -/
  | truncated
  deriving DecidableEq, Repr

/-- The instruction at the head of a list of bytes, with the bytes after it. Every word is an instruction or an unrecognised
word (R95), so the only refusal is for want of two bytes. -/
def decode : List Byte → Except DecodeError (Instr × List Byte)
  | hi :: lo :: rest => .ok (decodeWord (wordOfBytes hi lo), rest)
  | _ => .error .truncated

/-- The word of an instruction, from the encodings of R94. -/
def encode : Instr → Word
  | .cls => 0x00E0#16
  | .ret => 0x00EE#16
  | .high => 0x00FF#16
  | .low => 0x00FE#16
  | .exit => 0x00FD#16
  | .scr => 0x00FB#16
  | .scl => 0x00FC#16
  | .scd n => 0x00C#12 ++ n
  | .jp nnn => 0x1#4 ++ nnn
  | .call nnn => 0x2#4 ++ nnn
  | .seImm x nn => 0x3#4 ++ x ++ nn
  | .sneImm x nn => 0x4#4 ++ x ++ nn
  | .seReg x y => 0x5#4 ++ x ++ y ++ 0x0#4
  | .sneReg x y => 0x9#4 ++ x ++ y ++ 0x0#4
  | .ldImm x nn => 0x6#4 ++ x ++ nn
  | .addImm x nn => 0x7#4 ++ x ++ nn
  | .ldReg x y => 0x8#4 ++ x ++ y ++ 0x0#4
  | .orReg x y => 0x8#4 ++ x ++ y ++ 0x1#4
  | .andReg x y => 0x8#4 ++ x ++ y ++ 0x2#4
  | .xorReg x y => 0x8#4 ++ x ++ y ++ 0x3#4
  | .addReg x y => 0x8#4 ++ x ++ y ++ 0x4#4
  | .sub x y => 0x8#4 ++ x ++ y ++ 0x5#4
  | .shr x y => 0x8#4 ++ x ++ y ++ 0x6#4
  | .subn x y => 0x8#4 ++ x ++ y ++ 0x7#4
  | .shl x y => 0x8#4 ++ x ++ y ++ 0xE#4
  | .ldI nnn => 0xA#4 ++ nnn
  | .jpV0 nnn => 0xB#4 ++ nnn
  | .rnd x nn => 0xC#4 ++ x ++ nn
  | .drw x y n => 0xD#4 ++ x ++ y ++ n
  | .skp x => 0xE#4 ++ x ++ 0x9E#8
  | .sknp x => 0xE#4 ++ x ++ 0xA1#8
  | .ldVxDt x => 0xF#4 ++ x ++ 0x07#8
  | .ldVxK x => 0xF#4 ++ x ++ 0x0A#8
  | .ldDtVx x => 0xF#4 ++ x ++ 0x15#8
  | .ldStVx x => 0xF#4 ++ x ++ 0x18#8
  | .addI x => 0xF#4 ++ x ++ 0x1E#8
  | .ldF x => 0xF#4 ++ x ++ 0x29#8
  | .ldHf x => 0xF#4 ++ x ++ 0x30#8
  | .ldB x => 0xF#4 ++ x ++ 0x33#8
  | .ldMemVx x => 0xF#4 ++ x ++ 0x55#8
  | .ldVxMem x => 0xF#4 ++ x ++ 0x65#8
  | .ldRVx x => 0xF#4 ++ x ++ 0x75#8
  | .ldVxR x => 0xF#4 ++ x ++ 0x85#8
  | .unrecognised w => w

/-- The high byte of a word, which lies at the lower address (R75). -/
def highByte (w : Word) : Byte := w.extractLsb' 8 8

/-- The low byte of a word. -/
def lowByte (w : Word) : Byte := w.extractLsb' 0 8

/-- The two bytes of an instruction as memory holds them (R75). -/
def encodeBytes (i : Instr) : List Byte := [highByte (encode i), lowByte (encode i)]

/-- The word whose low `nbits` bits are those of `w` and whose other bits are 0. -/
def tableWord (nbits w : Nat) : Word := BitVec.ofNat 16 (w % 2 ^ nbits)

/-- The instruction the decoder reads from the bits `w` of an opcode-table row of `nbits` bits; none where it refuses. -/
def decodeTableWord (nbits w : Nat) : Option Instr :=
  match decode [highByte (tableWord nbits w), lowByte (tableWord nbits w)] with
  | .ok (i, _) => some i
  | .error _ => none

end Sys2Proof
end

