-- ==== Sys2Proof/Config.lean ====
section
/-! DEFINITION. What an implementation fixes (the parameters of 00_scope section 3) and the free values.

`Config.Params` is the configuration record; the machine's state carries one, so that a statement about every state holds
for every parameter value. The `opaque` constants are the values the spec leaves open: nothing in Lean can evaluate them. -/

namespace Sys2Proof.Config

/-- `MEM_SIZE`: the two sizes the spec names (R7). -/
inductive MemSize where
  | kib4
  | kib64
  deriving DecidableEq, Repr, Inhabited

/-- The number of bytes of memory (R7). -/
def MemSize.bytes : MemSize → Nat
  | .kib4 => 4096
  | .kib64 => 65536

/-- `P_SUB_FLAG`: VF of a subtraction whose operands are equal (R178). -/
inductive SubFlag where
  | ge
  | gt
  deriving DecidableEq, Repr, Inhabited

/-- `P_VF_ORDER`: which of the two writes of WriteRF comes last (R172). -/
inductive VfOrder where
  | flagLast
  | resultLast
  deriving DecidableEq, Repr, Inhabited

/-- `P_FX1E_VF`: the effect of FX1E on VF (R248). -/
inductive Fx1eVf where
  | unaffected
  | overflow
  deriving DecidableEq, Repr, Inhabited

/-- `P_DRAW_CLIP`: which pixels of a sprite are drawn (R213). -/
inductive DrawClip where
  | indexOnly
  | perAxis
  deriving DecidableEq, Repr, Inhabited

/-- The three run-time quirk flags (R3, R8, R44). -/
structure Quirks where
  /-- `Q_SHIFT_VY`: 8XY6 and 8XYE take their source from Vy (R179). -/
  shiftVy : Bool
  /-- `Q_JUMP_VX`: BNNN adds Vx (R201). -/
  jumpVx : Bool
  /-- `Q_INC_I`: FX55 and FX65 add X + 1 to I (R252, R253). -/
  incI : Bool
  deriving DecidableEq, Repr, Inhabited

/-- The configuration of the core (00_scope section 3). Only the host writes it, and only `quirks` and `speed` (R44, R68). -/
structure Params where
  memSize : MemSize
  quirks : Quirks
  /-- `SPEED`: a tick is `9 * SPEED` cycles (R9, R122). -/
  speed : Nat
  /-- `FONT_LO`: the small glyphs at 0..79 (R10). -/
  fontLo : Vector Byte 80
  /-- `FONT_HI`: the big glyphs at 80..239 (R10). -/
  fontHi : Vector Byte 160
  subFlag : SubFlag
  vfOrder : VfOrder
  fx1eVf : Fx1eVf
  drawClip : DrawClip
  deriving DecidableEq, Repr, Inhabited

/-- The default `FONT_LO`, digits 0 to 3 (93_implementation_defined section 4; PRESUMED there: general knowledge). -/
def fontDigits0to3 : Vector Byte 20 :=
  #v[0xF0, 0x90, 0x90, 0x90, 0xF0,  0x20, 0x60, 0x20, 0x20, 0x70,
     0xF0, 0x10, 0xF0, 0x80, 0xF0,  0xF0, 0x10, 0xF0, 0x10, 0xF0]

/-- The default `FONT_LO`, digits 4 to 7. -/
def fontDigits4to7 : Vector Byte 20 :=
  #v[0x90, 0x90, 0xF0, 0x10, 0x10,  0xF0, 0x80, 0xF0, 0x10, 0xF0,
     0xF0, 0x80, 0xF0, 0x90, 0xF0,  0xF0, 0x10, 0x20, 0x40, 0x40]

/-- The default `FONT_LO`, digits 8 to B. -/
def fontDigits8toB : Vector Byte 20 :=
  #v[0xF0, 0x90, 0xF0, 0x90, 0xF0,  0xF0, 0x90, 0xF0, 0x10, 0xF0,
     0xF0, 0x90, 0xF0, 0x90, 0x90,  0xE0, 0x90, 0xE0, 0x90, 0xE0]

/-- The default `FONT_LO`, digits C to F. -/
def fontDigitsCtoF : Vector Byte 20 :=
  #v[0xF0, 0x80, 0x80, 0x80, 0xF0,  0xE0, 0x90, 0x90, 0x90, 0xE0,
     0xF0, 0x80, 0xF0, 0x80, 0xF0,  0xF0, 0x80, 0xF0, 0x80, 0x80]

/-- The default `FONT_LO` table of the spec. PRESUMED there (general knowledge), log entry 3. Unsafe. No statement rests on these
bytes. -/
def defaultFontLo : Vector Byte 80 :=
  fontDigits0to3 ++ fontDigits4to7 ++ fontDigits8toB ++ fontDigitsCtoF

/-- The quirk flags the host supplies at construction: free, since the spec gives no default (R8, D22, N2).
DESIGN CHOICE, log entry 2. Safe. -/
opaque quirks : Quirks

/-- The speed modifier the host supplies at construction: free (R9, D23, N3). DESIGN CHOICE, log entry 2. Safe. -/
opaque speed : Nat

/-- The big font: free, since the spec gives no byte of it (R10, D12, N30). DESIGN CHOICE, log entry 3. Safe. -/
opaque fontHi : Vector Byte 160

/-- The draw `MEM_INIT` of the Init numbered `draw`: what memory outside the fonts holds at address `a` (R62, D26).
DESIGN CHOICE, log entry 4. Safe. -/
opaque memInit (draw a : Nat) : Byte

/-- The draw `RPL_INIT` of the Init numbered `draw` (R62, D27). DESIGN CHOICE, log entry 5. Safe. -/
opaque rplInit (draw : Nat) : Vector Byte 8

/-- The random byte numbered `k` of the oracle, once the bytes listed in the state are used up (R203, D21). DESIGN CHOICE, log
entry 7. Safe. -/
opaque randomByte (k : Nat) : Byte

/-- The key sample numbered `k`, once the samples listed in the state are used up (R66, D28). DESIGN CHOICE, log entry 6. Safe. -/
opaque keySample (k : Nat) : Vector Bool 16

end Sys2Proof.Config
end

