-- ==== Sys2Proof/Machine/State.lean ====
section
/-! DEFINITION. The machine's state (10_state), its faults and refusals, its output events, and the state after reset.

Plain data: no field holds a function. The fields from `v` to `fault` are the spec's own state; `cfg` is its configuration
(not state for the spec, R3 and R44, but held here so that a statement about every state holds for every configuration); `trace`
is the output trace of R67; the last five are the model's own: the inputs of the run and the counters of the free values. -/

namespace Sys2Proof.Machine

/-- The GraphicsMode (R33). -/
inductive Mode where
  /-- 64 x 32 -/
  | low
  /-- 128 x 64 -/
  | high
  deriving DecidableEq, Repr, Inhabited

/-- The framebuffer as the list of its lit cells, in rising order: cell `k` is 1 exactly when `k` is listed (R34; D39 lets a
model store a cell as one bit). The number of cells is that of the mode (R38). DESIGN CHOICE, log entry 11. Safe. -/
abbrev Framebuffer := List Nat

/-- The bytes stored since the last Init, at rising addresses. An unlisted address holds no stored byte: reading it gives its
reset contents (R62). DESIGN CHOICE, log entry 4. Safe. -/
abbrev Memory := List Host.Cell

/-- The 16 key-down states (R40). -/
abbrev Keys := Vector Bool 16

/-- An event of the output trace (R67). -/
inductive Event where
  /-- `FRAME(FB, MODE)` (R123) -/
  | frame (fb : Framebuffer) (mode : Mode)
  /-- `BEEP` (R119) -/
  | beep
  deriving DecidableEq, Repr

/-- The fault kinds of R271, each with its recorded value. Each stops the core (R272). -/
inductive Fault where
  /-- An access at the address `a >= MEM_SIZE`. Raised by the fetch, DXYN, FX33, FX55 and FX65 (R73). Safe: the model stops where
  the source is silent (D2). -/
  | memOutOfRange (a : Nat)
  /-- 2NNN with 16 entries in use; records PC after the advance (R152). Safe (D6). -/
  | stackOverflow (pc : Word)
  /-- 00EE with no entry in use; records PC after the advance (R132). Safe (D6). -/
  | stackUnderflow (pc : Word)
  /-- EX9E or EXA1 with `V[X] > 15` (R232). Safe (D19). -/
  | keyIndexOutOfRange (v : Byte)
  /-- FX75 or FX85 with `X > 7` (R256). Safe (D20). -/
  | rplIndexOutOfRange (x : Nibble)
  deriving DecidableEq, Repr

/-- Why an instruction has no meaning in a state. -/
inductive Refusal where
  /-- The instruction of this mnemonic is not modelled yet. Raised by no arm of exec. Safe. -/
  | notModelled (mnemonic : String)
  /-- 2NNN or 00EE with SP above its legal values 0 to 16 (R30), where no rule of the spec gives an effect. Raised only in states
  that no run reaches. DESIGN CHOICE, log entry 12. Safe. -/
  | illegalStackPointer (sp : Word)
  deriving DecidableEq, Repr

/-- The whole state of the core, its configuration, its output trace and the inputs of its run. -/
structure State where
  /-- V0 to VF (R20); VF is `v[15]` (R21). -/
  v : Vector Byte 16
  /-- The index register I (R27). -/
  i : Word
  /-- The address of the next instruction (R23); during execute, the fetch address plus 2 (R24). -/
  pc : Word
  /-- The number of stack entries in use, legal values 0 to 16 (R30). -/
  sp : Word
  /-- The return addresses (R29). -/
  stack : Vector Word 16
  /-- The delay timer (R32). -/
  dt : Byte
  /-- The sound timer (R32). -/
  st : Byte
  /-- The GraphicsMode (R33). -/
  mode : Mode
  /-- The framebuffer (R34). -/
  fb : Framebuffer
  /-- The redraw-pending flag (R37). -/
  redraw : Bool
  /-- The RPL flag bank (R39). -/
  rpl : Vector Byte 8
  /-- The key sample of the last cycle (R40, R66). -/
  keys : Keys
  /-- The instruction word of the last fetch (R42). -/
  opcode : Word
  /-- The bytes stored since the last Init (R47). -/
  mem : Memory
  /-- A ROM is loaded (R43). -/
  loaded : Bool
  /-- The fault that stopped the core, if any (R46). -/
  fault : Option Fault
  /-- The configuration (00_scope section 3, R44, R45). -/
  cfg : Config.Params
  /-- The output events so far, oldest first (R67). -/
  trace : List Event
  /-- The model's own: the key samples the host has supplied and no cycle has taken (R66). -/
  keySamples : List Keys
  /-- The model's own: how many samples were taken after that list ran out. -/
  keyDraw : Nat
  /-- The model's own: the random bytes supplied and not yet drawn (R203). -/
  randomBytes : List Byte
  /-- The model's own: how many random bytes were drawn after that list ran out. -/
  randomDraw : Nat
  /-- The model's own: the number of the Init whose draws MEM_INIT and RPL_INIT are in force (R62). -/
  initDraw : Nat
  deriving DecidableEq, Repr, Inhabited

/-- The configuration at construction. The size and the four settled parameters are the values the spec takes (R7, R11); FONT_LO
is the spec's default table (R10); the quirks, SPEED and FONT_HI have no value in the spec and are free. DESIGN CHOICE, log entries
1 to 3. Unsafe for a claim from reset that reads one of the taken values. -/
def defaultParams : Config.Params where
  memSize := .kib64
  quirks := Config.quirks
  speed := Config.speed
  fontLo := Config.defaultFontLo
  fontHi := Config.fontHi
  subFlag := .ge
  vfOrder := .flagLast
  fx1eVf := .unaffected
  drawClip := .indexOnly

/-- The machine right after power-on: the construction state of R303, with the values of R55 to R64. Memory lists nothing, so that
every address reads as its reset contents (R62); RPL holds its draw. DESIGN CHOICE of the spec where R56 to R63 say so, log entry 15;
the model's own fields start empty and at 0, log entries 4, 6, 7, 14. -/
def State.reset : State where
  v := Vector.replicate 16 0
  i := 0
  pc := 0x200
  sp := 0
  stack := Vector.replicate 16 0
  dt := 0
  st := 0
  mode := .low
  fb := []
  redraw := false
  rpl := Config.rplInit 0
  keys := Vector.replicate 16 false
  opcode := 0
  mem := []
  loaded := false
  fault := none
  cfg := defaultParams
  trace := []
  keySamples := []
  keyDraw := 0
  randomBytes := []
  randomDraw := 0
  initDraw := 0

end Sys2Proof.Machine

namespace Sys2Proof.Config

/-- The state after a cycle that faulted, apart from FAULT: unspecified (R115, R273, S6), a free value.
DESIGN CHOICE, log entry 9. Safe. -/
opaque afterFault (f : Machine.Fault) (s : Machine.State) : Machine.State

end Sys2Proof.Config
end

