-- ==== Sys2Proof/Machine/Ops.lean ====
section
/-! DEFINITION. The named operations over registers, memory, stack, framebuffer and inputs, taking a fault, and Init.

Every read and write of a piece of state by an instruction goes through one of these. -/

namespace Sys2Proof.Machine

/-! ### General registers and RPL -/

/-- `V[x]` (R20). -/
def State.reg (s : State) (x : Nibble) : Byte := s.v[x.toNat]'(by have := x.isLt; omega)

/-- `V[x] <- b` (R20). No register is hardwired. -/
def State.setReg (s : State) (x : Nibble) (b : Byte) : State :=
  { s with v := s.v.set x.toNat b (by have := x.isLt; omega) }

/-- Write the bytes at the positions `k`, `k + 1`, ... of a register bank. A position past its end is left out. -/
def putBank {n : Nat} (bank : Vector Byte n) (k : Nat) : List Byte → Vector Byte n
  | [] => bank
  | b :: bs => putBank (bank.setIfInBounds k b) (k + 1) bs

/-- `V[0..x]` in order (R252, R254). -/
def State.regsUpTo (s : State) (x : Nibble) : List Byte := s.v.toList.take (x.toNat + 1)

/-- `RPL[0..x]` in order (R255). -/
def State.rplUpTo (s : State) (x : Nibble) : List Byte := s.rpl.toList.take (x.toNat + 1)

/-- `V[0] <- b0, V[1] <- b1, ...` (R253, R255). -/
def State.loadRegs (s : State) (bs : List Byte) : State := { s with v := putBank s.v 0 bs }

/-- `RPL[0] <- b0, RPL[1] <- b1, ...` (R254). -/
def State.loadRpl (s : State) (bs : List Byte) : State := { s with rpl := putBank s.rpl 0 bs }

/-! ### Program counter -/

/-- `PC <- trunc_16(PC + 2)`: the advance after a fetch (R111), and the extra step of a taken skip (R151). -/
def State.advance (s : State) : State := { s with pc := s.pc + 2 }

/-- Skip() when the condition holds (R151). -/
def State.skipIf (s : State) (taken : Bool) : State := { s with pc := if taken then s.pc + 2 else s.pc }

/-! ### Memory -/

/-- The byte stored at an address since the last Init, if any. -/
def Memory.get? : Memory → Nat → Option Byte
  | [], _ => none
  | (b, w) :: m, a => if b = a then some w else Memory.get? m a

/-- Store a byte, keeping the addresses rising. -/
def Memory.put : Memory → Nat → Byte → Memory
  | [], a, v => [(a, v)]
  | (b, w) :: m, a, v =>
    if a < b then (a, v) :: (b, w) :: m
    else if a = b then (a, v) :: m
    else (b, w) :: Memory.put m a v

/-- The canonical form: strictly rising addresses. An unlisted address holds no stored byte, so no entry can repeat one. -/
def Memory.wf : Memory → Bool
  | [] => true
  | [_] => true
  | (a, _) :: (b, w) :: m => decide (a < b) && Memory.wf ((b, w) :: m)

/-- Every stored byte lies below `bound`. -/
def Memory.below (m : Memory) (bound : Nat) : Bool := m.all (fun c => decide (c.1 < bound))

/-- What an unlisted address reads as: the reset contents of memory (R62, R80). FONT_LO at 0..79, FONT_HI at 80..239, and at every
other address the draw MEM_INIT of the last Init, a free value. -/
def State.initByte (s : State) (a : Nat) : Byte :=
  if h : a < 80 then s.cfg.fontLo[a]
  else if h' : a < 240 then s.cfg.fontHi[a - 80]
  else Config.memInit s.initDraw a

/-- `Mem[a]`, with no range check: what a byte of memory holds (R47, R83). -/
def State.byte (s : State) (a : Nat) : Byte := (s.mem.get? a).getD (s.initByte a)

/-- `MemRead(a, 1)` (R73). The address is an unbounded natural number (R74). -/
def memRead (s : State) (a : Nat) : Except Fault Byte :=
  if a < s.cfg.memSize.bytes then .ok (s.byte a) else .error (.memOutOfRange a)

/-- `MemWrite(a, 1, v)` (R73). -/
def memWrite (s : State) (a : Nat) (v : Byte) : Except Fault State :=
  if a < s.cfg.memSize.bytes then .ok { s with mem := s.mem.put a v } else .error (.memOutOfRange a)

/-- Read `n` bytes at `a`, `a + 1`, ... in ascending order; the first address out of range is the one reported (R274). -/
def loadBytes (s : State) (a : Nat) : Nat → Except Fault (List Byte)
  | 0 => .ok []
  | n + 1 =>
    match memRead s a with
    | .error f => .error f
    | .ok b =>
      match loadBytes s (a + 1) n with
      | .error f => .error f
      | .ok bs => .ok (b :: bs)

/-- Write bytes at `a`, `a + 1`, ... in ascending order; the first address out of range is the one reported (R274). -/
def storeBytes (s : State) (a : Nat) : List Byte → Except Fault State
  | [] => .ok s
  | b :: bs =>
    match memWrite s a b with
    | .error f => .error f
    | .ok t => storeBytes t (a + 1) bs

/-! ### Stack -/

/-- Push the advanced PC and jump (R152). `StackOverflow` when 16 entries are in use (R271). SP above 16 is refused:
DESIGN CHOICE, log entry 12. Safe. -/
def State.pushAndJump (s : State) (target : Word) : Host.Outcome State Fault Refusal :=
  if s.sp = 16 then .fault (.stackOverflow s.pc)
  else if h : s.sp.toNat < 16 then
    .next { s with stack := s.stack.set s.sp.toNat s.pc h, sp := s.sp + 1, pc := target }
  else .refused (.illegalStackPointer s.sp)

/-- Decrement SP, then read the entry into PC; the entry keeps its value (R132, R31). `StackUnderflow` when none is in
use. SP above 16 is refused: DESIGN CHOICE, log entry 12. Safe. -/
def State.popPc (s : State) : Host.Outcome State Fault Refusal :=
  if s.sp = 0 then .fault (.stackUnderflow s.pc)
  else if h : s.sp.toNat - 1 < 16 then
    .next { s with sp := s.sp - 1, pc := s.stack[s.sp.toNat - 1]'h }
  else .refused (.illegalStackPointer s.sp)

/-! ### Framebuffer -/

/-- W (R38). -/
def Mode.width : Mode → Nat
  | .low => 64
  | .high => 128

/-- H (R38). -/
def Mode.height : Mode → Nat
  | .low => 32
  | .high => 64

/-- W * H (R38). -/
def Mode.cells (m : Mode) : Nat := m.width * m.height

/-- `FB[k] = 1`. -/
def Framebuffer.lit (fb : Framebuffer) (k : Nat) : Bool := fb.contains k

/-- Light a dark cell, keeping the list rising. -/
def Framebuffer.light : Framebuffer → Nat → Framebuffer
  | [], k => [k]
  | j :: fb, k => if k < j then k :: j :: fb else j :: Framebuffer.light fb k

/-- `FB[k] <- FB[k] ^ 1` (R211). -/
def Framebuffer.toggle (fb : Framebuffer) (k : Nat) : Framebuffer :=
  if fb.lit k then fb.filter (fun j => j != k) else fb.light k

/-- The canonical form: strictly rising cells. -/
def Framebuffer.wf : Framebuffer → Bool
  | [] => true
  | [_] => true
  | a :: b :: fb => decide (a < b) && Framebuffer.wf (b :: fb)

/-- Every lit cell is a cell of the mode (R34, R36). -/
def Framebuffer.fits (fb : Framebuffer) (m : Mode) : Bool := fb.all (fun k => decide (k < m.cells))

/-- Clear every cell and mark a redraw (R130). -/
def State.clearScreen (s : State) : State := { s with fb := [], redraw := true }

/-- SetMode(m): on a change, the mode's own size of framebuffer, all 0; else nothing. REDRAW is not written (R134). -/
def State.setMode (s : State) (m : Mode) : State :=
  { s with mode := m, fb := if s.mode = m then s.fb else [] }

/-- Visible(x, y) (R213). -/
def visible (clip : Config.DrawClip) (m : Mode) (x y : Nat) : Bool :=
  match clip with
  | .indexOnly => decide (y * m.width + x < m.cells)
  | .perAxis => decide (x < m.width) && decide (y < m.height)

/-- Plot(x, y) on a framebuffer and the collision flag so far (R211); the index is row-major (R35). -/
def plot (clip : Config.DrawClip) (m : Mode) (c : Framebuffer × Bool) (p : Nat × Nat) : Framebuffer × Bool :=
  let k := p.2 * m.width + p.1
  if visible clip m p.1 p.2 then (c.1.toggle k, c.2 || c.1.lit k) else c

/-- The set pixels of one sprite row, leftmost first: the leftmost pixel is the most significant of `width` bits (R210, R216). PRESUMED
by the spec, log entry 16. Unsafe. -/
def rowPixels (width x0 y bits : Nat) : List (Nat × Nat) :=
  ((List.range width).filter (fun c => bits.testBit (width - 1 - c))).map (fun c => (x0 + c, y))

/-- The set pixels of a sprite's rows, top row first (R210). -/
def spritePixels (width x0 : Nat) (y : Nat) : List Nat → List (Nat × Nat)
  | [] => []
  | bits :: rows => rowPixels width x0 y bits ++ spritePixels width x0 (y + 1) rows

/-- The 16-pixel rows of the 32 bytes of a 16 x 16 sprite: two bytes a row, the left half first (R212). PRESUMED by the spec,
log entry 16. Unsafe. -/
def wideRows : List Byte → List Nat
  | hi :: lo :: bs => (hi.toNat * 256 + lo.toNat) :: wideRows bs
  | _ => []

/-- DXYN draws its 16 x 16 form: N = 0 in High mode (R210, R212). -/
def isWideSprite (m : Mode) (n : Nibble) : Bool := decide (n = 0) && decide (m = .high)

/-- How many bytes the sprite of DXYN has: 32 in the wide form, else N (R72). N = 0 in Low mode has none (R215). -/
def spriteBytes (m : Mode) (n : Nibble) : Nat := if isWideSprite m n then 32 else n.toNat

/-- The width of the sprite of DXYN in pixels (R210). -/
def spriteWidth (m : Mode) (n : Nibble) : Nat := if isWideSprite m n then 16 else 8

/-- SpriteRow(r) for every row, from the sprite's bytes (R212, R216). -/
def spriteRows (m : Mode) (n : Nibble) (bs : List Byte) : List Nat :=
  if isWideSprite m n then wideRows bs else bs.map BitVec.toNat

/-- XOR the pixels onto the framebuffer, then VF <- collision and REDRAW <- 1 (R210, R214). -/
def State.paint (s : State) (pixels : List (Nat × Nat)) : State :=
  let c := pixels.foldl (plot s.cfg.drawClip s.mode) (s.fb, false)
  { s.setReg 15 (if c.2 then 1 else 0) with fb := c.1, redraw := true }

/-! ### Inputs of the run -/

/-- `Keys <- KEYS_IN`: take the next sample of the run (R66). Once the supplied samples are used up, each further one is free.
DESIGN CHOICE, log entry 6. Safe. -/
def State.sampleKeys (s : State) : State :=
  match s.keySamples with
  | [] => { s with keys := Config.keySample s.keyDraw, keyDraw := s.keyDraw + 1 }
  | k :: ks => { s with keys := k, keySamples := ks }

/-- The value RandomByte() returns next (R203). Once the supplied bytes are used up, each further one is free. DESIGN
CHOICE, log entry 7. Safe. -/
def State.randomByte (s : State) : Byte := s.randomBytes.headD (Config.randomByte s.randomDraw)

/-- The oracle after one draw (R203). -/
def State.dropRandom (s : State) : State :=
  match s.randomBytes with
  | [] => { s with randomDraw := s.randomDraw + 1 }
  | _ :: bs => { s with randomBytes := bs }

/-- The key `k` is down in this cycle's sample (R40). -/
def State.keyDown (s : State) (k : Fin 16) : Bool := s.keys[k]

/-- The lowest-numbered key that is down (R241). -/
def State.firstKey (s : State) : Option (Fin 16) := (List.finRange 16).find? (fun k => s.keyDown k)

/-! ### Init, and taking a fault -/

/-- Init(): the full state reset (R300, R55 to R63), with fresh draws for memory and RPL (R62). LOADED, FAULT, the configuration,
the output trace and the inputs of the run are left (R64, R65). -/
def State.init (s : State) : State :=
  { s with
    v := Vector.replicate 16 0
    i := 0
    pc := 0x200
    sp := 0
    stack := Vector.replicate 16 0
    dt := 0
    st := 0
    mode := .low
    fb := []
    redraw := false
    rpl := Config.rplInit (s.initDraw + 1)
    keys := Vector.replicate 16 false
    opcode := 0
    mem := []
    initDraw := s.initDraw + 1 }

/-- What raising a fault in a cycle leaves (R272): FAULT holds it with its recorded value. The configuration, the events already
emitted and the inputs of the run are no part of what the fault leaves unspecified; every other element is free (R115). DESIGN CHOICE, log
entry 9. Safe. -/
def State.raise (s : State) (f : Fault) : State :=
  { Config.afterFault f s with
    fault := some f
    cfg := s.cfg
    trace := s.trace
    keySamples := s.sampleKeys.keySamples
    keyDraw := s.sampleKeys.keyDraw
    randomBytes := s.randomBytes
    randomDraw := s.randomDraw }

/-- An instruction that either raises a fault or goes on to a state (R113). -/
def orFault : Except Fault State → Host.Outcome State Fault Refusal
  | .ok t => .next t
  | .error f => .fault f

end Sys2Proof.Machine
end

