-- ==== Sys2Proof/Machine/Flags.lean ====
section
/-! DEFINITION. The flag computations (VF is the only flag, R21) and the write of a result with its flag (R172). -/

namespace Sys2Proof.Machine

/-- A flag as the whole byte VF receives: 0 or 1 (R21). -/
def flagByte (f : Bool) : Byte := if f then 1 else 0

/-- The carry of 8XY4: the 9-bit sum exceeds 255 (R177). -/
def carryFlag (a b : Byte) : Bool := decide (a.toNat + b.toNat > 255)

/-- NoBorrow(m, s) of the subtraction `m - s` (R178). -/
def noBorrow (p : Config.SubFlag) (m s : Byte) : Bool :=
  match p with
  | .ge => decide (s.toNat ≤ m.toNat)
  | .gt => decide (s.toNat < m.toNat)

/-- The bit 8XY6 shifts out: bit 0 (R181). -/
def shiftedRightBit (src : Byte) : Bool := src.getLsbD 0

/-- The bit 8XYE shifts out: bit 7 (R183). -/
def shiftedLeftBit (src : Byte) : Bool := src.getLsbD 7

/-- FX1E's sum exceeds the memory ceiling (R248). -/
def exceedsMemory (size : Config.MemSize) (sum : Nat) : Bool := decide (sum > size.bytes - 1)

/-- WriteRF(x, r, f): the result to `V[x]` and the flag to VF, in the order of `P_VF_ORDER` (R172). -/
def State.writeRF (s : State) (x : Nibble) (r : Byte) (f : Bool) : State :=
  match s.cfg.vfOrder with
  | .flagLast => (s.setReg x r).setReg 15 (flagByte f)
  | .resultLast => (s.setReg 15 (flagByte f)).setReg x r

end Sys2Proof.Machine
end

