-- ==== Sys2Proof/Machine/Operands.lean ====
section
/-! DEFINITION. The operand forms: zero-extended literals (R92), the shift source (R179), the jump offset (R201), the key number
(R232), the RPL count (R256) and the address in I. -/

namespace Sys2Proof.Machine

/-- NNN zero-extended to 16 bits (R92). -/
def addrOf (nnn : Addr12) : Word := nnn.setWidth 16

/-- A register value zero-extended to 16 bits (R92, 00_scope section 4). -/
def wordOf (b : Byte) : Word := b.setWidth 16

/-- ShiftSource: Vy under `Q_SHIFT_VY`, else Vx, read before the shift (R179). -/
def State.shiftSource (s : State) (x y : Nibble) : Byte := if s.cfg.quirks.shiftVy then s.reg y else s.reg x

/-- The high nibble of NNN, which is the X field of BNNN (R92, R201). -/
def jumpRegister (nnn : Addr12) : Nibble := nnn.extractLsb' 8 4

/-- The offset of BNNN: Vx under `Q_JUMP_VX`, else V0 (R201). -/
def State.jumpOffset (s : State) (nnn : Addr12) : Byte := if s.cfg.quirks.jumpVx then s.reg (jumpRegister nnn) else s.reg 0

/-- KeyIndex(v): the key number of EX9E and EXA1 (R232). -/
def keyIndex (v : Byte) : Except Fault (Fin 16) :=
  if h : v.toNat < 16 then .ok ⟨v.toNat, h⟩ else .error (.keyIndexOutOfRange v)

/-- RplCount(X): the range check of FX75 and FX85, before any transfer (R256). -/
def rplInRange (x : Nibble) : Bool := decide (x.toNat ≤ 7)

/-- The address in I, as the unbounded natural number every access starts from (R74). -/
def State.index (s : State) : Nat := s.i.toNat

/-- `I <- trunc_16(I + X + 1)` under `Q_INC_I`, after FX55 and FX65 (R252, R253, R28). -/
def State.bumpIndex (s : State) (x : Nibble) : State :=
  { s with i := if s.cfg.quirks.incI then s.i + x.setWidth 16 + 1 else s.i }

/-- The hundreds, tens and ones of a byte (R251). -/
def decimalDigits (v : Byte) : List Byte :=
  [BitVec.ofNat 8 (v.toNat / 100), BitVec.ofNat 8 (v.toNat / 10 % 10), BitVec.ofNat 8 (v.toNat % 10)]

end Sys2Proof.Machine
end

