-- ==== Sys2Proof/Machine/Alu.lean ====
section
/-! DEFINITION. Register loads and the 8-bit ALU (43_alu): 6XNN, 7XNN, 8XY0 to 8XYE. Arithmetic is unsigned modulo 256 (R184);
operands are read before any write (R13). The table of 8XYn and the shift directions are PRESUMED by the spec (D7), log entry 13:
unsafe. -/

namespace Sys2Proof.Machine

/-- 6XNN LD Vx, NN (R170). -/
def execLdImm (x : Nibble) (nn : Byte) (s : State) : Host.Outcome State Fault Refusal := .next (s.setReg x nn)

/-- 7XNN ADD Vx, NN: wraps, no flag (R171). -/
def execAddImm (x : Nibble) (nn : Byte) (s : State) : Host.Outcome State Fault Refusal :=
  .next (s.setReg x (s.reg x + nn))

/-- 8XY0 LD Vx, Vy (R173). -/
def execLdReg (x y : Nibble) (s : State) : Host.Outcome State Fault Refusal := .next (s.setReg x (s.reg y))

/-- 8XY1 OR Vx, Vy: VF is not written as a flag (R174). -/
def execOr (x y : Nibble) (s : State) : Host.Outcome State Fault Refusal := .next (s.setReg x (s.reg x ||| s.reg y))

/-- 8XY2 AND Vx, Vy (R175). -/
def execAnd (x y : Nibble) (s : State) : Host.Outcome State Fault Refusal := .next (s.setReg x (s.reg x &&& s.reg y))

/-- 8XY3 XOR Vx, Vy (R176). -/
def execXor (x y : Nibble) (s : State) : Host.Outcome State Fault Refusal := .next (s.setReg x (s.reg x ^^^ s.reg y))

/-- 8XY4 ADD Vx, Vy: VF = carry (R177). -/
def execAddReg (x y : Nibble) (s : State) : Host.Outcome State Fault Refusal :=
  .next (s.writeRF x (s.reg x + s.reg y) (carryFlag (s.reg x) (s.reg y)))

/-- 8XY5 SUB Vx, Vy: `Vx - Vy`, VF = NoBorrow(Vx, Vy) (R180). -/
def execSub (x y : Nibble) (s : State) : Host.Outcome State Fault Refusal :=
  .next (s.writeRF x (s.reg x - s.reg y) (noBorrow s.cfg.subFlag (s.reg x) (s.reg y)))

/-- 8XY6 SHR Vx, Vy: VF = the bit shifted out (R181). -/
def execShr (x y : Nibble) (s : State) : Host.Outcome State Fault Refusal :=
  .next (s.writeRF x (s.shiftSource x y >>> 1) (shiftedRightBit (s.shiftSource x y)))

/-- 8XY7 SUBN Vx, Vy: `Vy - Vx`, VF = NoBorrow(Vy, Vx) (R182). -/
def execSubn (x y : Nibble) (s : State) : Host.Outcome State Fault Refusal :=
  .next (s.writeRF x (s.reg y - s.reg x) (noBorrow s.cfg.subFlag (s.reg y) (s.reg x)))

/-- 8XYE SHL Vx, Vy: VF = the bit shifted out (R183). -/
def execShl (x y : Nibble) (s : State) : Host.Outcome State Fault Refusal :=
  .next (s.writeRF x (s.shiftSource x y <<< 1) (shiftedLeftBit (s.shiftSource x y)))

end Sys2Proof.Machine
end

