-- ==== Sys2Proof/Machine/Draw.lean ====
section
/-! DEFINITION. Sprite draw (45_draw): DXYN. -/

namespace Sys2Proof.Machine

/-- DXYN DRW Vx, Vy, N: XOR the sprite at I onto the framebuffer at (Vx, Vy) (R210). Every row is read, in ascending address order
(R217); the reads do not depend on the drawing, so they stand before it (DEDUCED, log entry 16: safe). The coordinates are read before
VF is written (R214). -/
def execDrw (x y n : Nibble) (s : State) : Host.Outcome State Fault Refusal :=
  match loadBytes s s.index (spriteBytes s.mode n) with
  | .error f => .fault f
  | .ok bs =>
    .next (s.paint
      (spritePixels (spriteWidth s.mode n) (s.reg x).toNat (s.reg y).toNat (spriteRows s.mode n bs)))

end Sys2Proof.Machine
end

