-- ==== Sys2Proof/Machine/Group0.lean ====
section
/-! DEFINITION. Group 0 (41_group0): 00E0, 00EE, 00FF, 00FE, 00FD, 00FB, 00FC, 00CN. -/

namespace Sys2Proof.Machine

/-- 00E0 CLS: clear the framebuffer of the current mode and mark a redraw (R130). -/
def execCls (s : State) : Host.Outcome State Fault Refusal := .next s.clearScreen

/-- 00EE RET: return from a subroutine, or StackUnderflow (R132). -/
def execRet (s : State) : Host.Outcome State Fault Refusal := s.popPc

/-- 00FF HIGH: SetMode(High) (R133). -/
def execHigh (s : State) : Host.Outcome State Fault Refusal := .next (s.setMode .high)

/-- 00FE LOW: SetMode(Low) (R135). -/
def execLow (s : State) : Host.Outcome State Fault Refusal := .next (s.setMode .low)

/-- 00FD EXIT: Init, then LOADED <- 0 (R136). -/
def execExit (s : State) : Host.Outcome State Fault Refusal := .next { s.init with loaded := false }

/-- 00FB SCR: declared and not implemented; no effect (R137). -/
def execScr (s : State) : Host.Outcome State Fault Refusal := .next s

/-- 00FC SCL: declared and not implemented; no effect (R138). -/
def execScl (s : State) : Host.Outcome State Fault Refusal := .next s

/-- 00CN SCD N: declared and not implemented; N is ignored (R139). -/
def execScd (_n : Nibble) (s : State) : Host.Outcome State Fault Refusal := .next s

end Sys2Proof.Machine
end

