-- ==== Sys2Proof/Machine/GroupF.lean ====
section
/-! DEFINITION. Group F (47_fx): timers, key wait, index arithmetic, fonts, BCD, block moves, RPL. The timer step of the same cycle
comes after (R119). -/

namespace Sys2Proof.Machine

/-- FX07 LD Vx, DT: the value before this cycle's timer step (R240). -/
def execLdVxDt (x : Nibble) (s : State) : Host.Outcome State Fault Refusal := .next (s.setReg x s.dt)

/-- FX0A LD Vx, K: the lowest key that is down, or PC back by 2 so that the wait runs again (R241). -/
def execLdVxK (x : Nibble) (s : State) : Host.Outcome State Fault Refusal :=
  .next (match s.firstKey with
    | some k => s.setReg x (BitVec.ofNat 8 k.val)
    | none => { s with pc := s.pc - 2 })

/-- FX15 LD DT, Vx (R242). -/
def execLdDtVx (x : Nibble) (s : State) : Host.Outcome State Fault Refusal := .next { s with dt := s.reg x }

/-- FX18 LD ST, Vx (R243). -/
def execLdStVx (x : Nibble) (s : State) : Host.Outcome State Fault Refusal := .next { s with st := s.reg x }

/-- FX1E ADD I, Vx: `I <- trunc_16(I + V[X])`; VF only under `P_FX1E_VF = overflow` (R248). -/
def execAddI (x : Nibble) (s : State) : Host.Outcome State Fault Refusal :=
  let sum := s.i.toNat + (s.reg x).toNat
  match s.cfg.fx1eVf with
  | .unaffected => .next { s with i := BitVec.ofNat 16 sum }
  | .overflow => .next { s.setReg 15 (flagByte (exceedsMemory s.cfg.memSize sum)) with i := BitVec.ofNat 16 sum }

/-- FX29 LD F, Vx: `I <- V[X] * 5`, unmasked (R249). -/
def execLdF (x : Nibble) (s : State) : Host.Outcome State Fault Refusal := .next { s with i := wordOf (s.reg x) * 5 }

/-- FX30 LD HF, Vx: `I <- V[X] * 10 + 80`, unmasked (R250). -/
def execLdHf (x : Nibble) (s : State) : Host.Outcome State Fault Refusal :=
  .next { s with i := wordOf (s.reg x) * 10 + 80 }

/-- FX33 LD B, Vx: hundreds, tens, ones to I, I + 1, I + 2 (R251). -/
def execLdB (x : Nibble) (s : State) : Host.Outcome State Fault Refusal :=
  orFault (storeBytes s s.index (decimalDigits (s.reg x)))

/-- FX55 LD [I], Vx: V0..Vx to memory at I; I moves only under `Q_INC_I` (R252). -/
def execLdMemVx (x : Nibble) (s : State) : Host.Outcome State Fault Refusal :=
  match storeBytes s s.index (s.regsUpTo x) with
  | .error f => .fault f
  | .ok t => .next (t.bumpIndex x)

/-- FX65 LD Vx, [I]: memory at I to V0..Vx; I moves only under `Q_INC_I` (R253). -/
def execLdVxMem (x : Nibble) (s : State) : Host.Outcome State Fault Refusal :=
  match loadBytes s s.index (x.toNat + 1) with
  | .error f => .fault f
  | .ok bs => .next ((s.loadRegs bs).bumpIndex x)

/-- FX75 LD R, Vx: V0..Vx to the RPL bank, or RplIndexOutOfRange (R254, R256). -/
def execLdRVx (x : Nibble) (s : State) : Host.Outcome State Fault Refusal :=
  if rplInRange x then .next (s.loadRpl (s.regsUpTo x)) else .fault (.rplIndexOutOfRange x)

/-- FX85 LD Vx, R: the RPL bank to V0..Vx, or RplIndexOutOfRange (R255, R256). -/
def execLdVxR (x : Nibble) (s : State) : Host.Outcome State Fault Refusal :=
  if rplInRange x then .next (s.loadRegs (s.rplUpTo x)) else .fault (.rplIndexOutOfRange x)

end Sys2Proof.Machine
end

