-- ==== Sys2Proof/Machine/Index.lean ====
section
/-! DEFINITION. Index load, offset jump and random byte (44_index_jump_random): ANNN, BNNN, CXNN. -/

namespace Sys2Proof.Machine

/-- ANNN LD I, NNN (R200). -/
def execLdI (nnn : Addr12) (s : State) : Host.Outcome State Fault Refusal := .next { s with i := addrOf nnn }

/-- BNNN JP V0, NNN: the full NNN plus V0, or plus Vx under `Q_JUMP_VX` (R201). -/
def execJpV0 (nnn : Addr12) (s : State) : Host.Outcome State Fault Refusal :=
  .next { s with pc := addrOf nnn + wordOf (s.jumpOffset nnn) }

/-- CXNN RND Vx, NN: one random byte is drawn, also for NN = 0 (R202, R203). -/
def execRnd (x : Nibble) (nn : Byte) (s : State) : Host.Outcome State Fault Refusal :=
  .next (s.dropRandom.setReg x (s.randomByte &&& nn))

end Sys2Proof.Machine
end

