-- ==== Sys2Proof/Machine/Jumps.lean ====
section
/-! DEFINITION. Jumps, calls and conditional skips (42_jumps_skips): 1NNN, 2NNN, 3XNN, 4XNN, 5XY0, 9XY0. -/

namespace Sys2Proof.Machine

/-- 1NNN JP NNN: `PC <- zext_16(NNN)` (R150). -/
def execJp (nnn : Addr12) (s : State) : Host.Outcome State Fault Refusal := .next { s with pc := addrOf nnn }

/-- 2NNN CALL NNN: push the advanced PC and jump, or StackOverflow (R152). -/
def execCall (nnn : Addr12) (s : State) : Host.Outcome State Fault Refusal := s.pushAndJump (addrOf nnn)

/-- 3XNN SE Vx, NN (R153). -/
def execSeImm (x : Nibble) (nn : Byte) (s : State) : Host.Outcome State Fault Refusal :=
  .next (s.skipIf (decide (s.reg x = nn)))

/-- 4XNN SNE Vx, NN (R154). -/
def execSneImm (x : Nibble) (nn : Byte) (s : State) : Host.Outcome State Fault Refusal :=
  .next (s.skipIf (decide (s.reg x ≠ nn)))

/-- 5XY0 SE Vx, Vy (R155). -/
def execSeReg (x y : Nibble) (s : State) : Host.Outcome State Fault Refusal :=
  .next (s.skipIf (decide (s.reg x = s.reg y)))

/-- 9XY0 SNE Vx, Vy (R156). -/
def execSneReg (x y : Nibble) (s : State) : Host.Outcome State Fault Refusal :=
  .next (s.skipIf (decide (s.reg x ≠ s.reg y)))

end Sys2Proof.Machine
end

