-- ==== Sys2Proof/Machine/KeyTests.lean ====
section
/-! DEFINITION. Key tests (46_keys): EX9E, EXA1. -/

namespace Sys2Proof.Machine

/-- EX9E SKP Vx: skip if the key is down in this cycle's sample, or KeyIndexOutOfRange (R230, R232). -/
def execSkp (x : Nibble) (s : State) : Host.Outcome State Fault Refusal :=
  match keyIndex (s.reg x) with
  | .error f => .fault f
  | .ok k => .next (s.skipIf (s.keyDown k))

/-- EXA1 SKNP Vx: skip if the key is up, or KeyIndexOutOfRange (R231, R232). -/
def execSknp (x : Nibble) (s : State) : Host.Outcome State Fault Refusal :=
  match keyIndex (s.reg x) with
  | .error f => .fault f
  | .ok k => .next (s.skipIf (!s.keyDown k))

end Sys2Proof.Machine
end

