-- ==== Sys2Proof/Machine/NoOp.lean ====
section
/-! DEFINITION. The unrecognised word (40_cycle R116). -/

namespace Sys2Proof.Machine

/-- An unrecognised word: the execute step does nothing (R95, R116). -/
def execUnrecognised (_w : Word) (s : State) : Host.Outcome State Fault Refusal := .next s

end Sys2Proof.Machine
end

