-- ==== Sys2Proof/Machine/Cycle.lean ====
section
/-! DEFINITION. One cycle (40_cycle): key sample, fetch, PC advance, decode, execute, timer step, frame emission (R114). -/

namespace Sys2Proof.Machine

/-- The word at PC: two byte reads, the high byte first; PC + 1 is not wrapped (R110, R75, R74). -/
def fetch (s : State) : Except Fault Word :=
  match memRead s s.pc.toNat with
  | .error f => .error f
  | .ok hi =>
    match memRead s (s.pc.toNat + 1) with
    | .error f => .error f
    | .ok lo => .ok (wordOfBytes hi lo)

/-- The state at the execute step: the fetched word latched in OPCODE (R110) and PC advanced by 2 (R111). -/
def State.latch (s : State) (w : Word) : State := { s.advance with opcode := w }

/-- One timer, one cycle: a timer at 0 stays at 0 (R119). -/
def countDown (t : Byte) : Byte := if t = 0 then 0 else t - 1

/-- TimerStep() (R119): the beep is emitted by the decrement that takes ST to 0, and by nothing else (R120). -/
def State.timerStep (s : State) : State :=
  { s with
    dt := countDown s.dt
    st := countDown s.st
    trace := if s.st ≠ 0 ∧ countDown s.st = 0 then s.trace ++ [.beep] else s.trace }

/-- If REDRAW = 1, emit FRAME(FB, MODE) and clear it (R123). -/
def State.emitFrame (s : State) : State :=
  { s with
    redraw := false
    trace := if s.redraw then s.trace ++ [.frame s.fb s.mode] else s.trace }

/-- What a cycle does after an execute step that did not fault (R114). -/
def State.endCycle (s : State) : State := s.timerStep.emitFrame

/-- The execute step of the decoded word, and the end of the cycle; a fault ends the cycle at once (R113, R115). -/
def runInstr (i : Instr) (s : State) : Host.Outcome State Fault Refusal :=
  match exec i s with
  | .next t => .next t.endCycle
  | .fault f => .fault f
  | .refused r => .refused r

/-- Cycle() (R114). -/
def cycle (s : State) : Host.Outcome State Fault Refusal :=
  match fetch s.sampleKeys with
  | .error f => .fault f
  | .ok w => runInstr (decodeWord w) (s.sampleKeys.latch w)

/-- A cycle runs only when LOADED = 1 and FAULT = none (R110, R122). An idle core keeps its state (R284); a faulted core is stopped
with its fault (R272). DESIGN CHOICE, log entry 9. Safe. -/
def cycleIfRunning (s : State) : Host.Outcome State Fault Refusal :=
  match s.fault with
  | some f => .fault f
  | none => if s.loaded then cycle s else .next s

end Sys2Proof.Machine
end

