-- ==== Sys2Proof/Machine/Step.lean ====
section
/-! DEFINITION. One step of the machine, and the placing of one instruction where the next step fetches. -/

namespace Sys2Proof.Machine

/-- One step: one cycle of the driver's loop (R114, R122). -/
def step (s : State) : Host.Outcome State Fault Refusal := cycleIfRunning s

/-- The state with the instruction of the bits `w` stored at PC and PC + 1, high byte first (R75), and the core running: LOADED = 1
and FAULT = none, without which no cycle runs (R122). It stands for the load of a program from outside (R305).
DESIGN CHOICE, log entry 10. Safe. -/
def State.withFetchWord (s : State) (nbits w : Nat) : State :=
  { s with
    mem := (s.mem.put s.pc.toNat (highByte (tableWord nbits w))).put (s.pc.toNat + 1) (lowByte (tableWord nbits w))
    loaded := true
    fault := none }

end Sys2Proof.Machine
end

