-- ==== Sys2Proof/Machine/Driver.lean ====
section
/-! DEFINITION. The cycle driver, the ROM loader and the host's other actions (40_cycle R122, 70_reset_and_hazards R305,
60_exceptions R289). They happen between cycles, outside `step`. -/

namespace Sys2Proof.Machine

/-- The driver runs a cycle in this state: LOADED = 1 and FAULT = none (R122). -/
def State.running (s : State) : Bool := s.loaded && s.fault.isNone

/-- The loop of the driver: at most `n` cycles, none once the core is idle or faulted (R122). A cycle that faults leaves FAULT set
(R272); a refusal, which no run reaches, is handed on. -/
def runCycles : Nat → State → Host.Outcome State Fault Refusal
  | 0, s => .next s
  | n + 1, s =>
    if s.running then
      match cycle s with
      | .next t => runCycles n t
      | .fault f => .next (s.raise f)
      | .refused r => .refused r
    else .next s

/-- Tick(): `9 * SPEED` cycles (R122). -/
def tick (s : State) : Host.Outcome State Fault Refusal := runCycles (9 * s.cfg.speed) s

/-- What the loader answers to its caller (R305, R306). -/
inductive LoadResult where
  | ok
  | romTooLarge
  deriving DecidableEq, Repr

/-- Copy bytes to memory at `a`, `a + 1`, ... (R305). -/
def Memory.putAll (m : Memory) (a : Nat) : List Byte → Memory
  | [] => m
  | b :: bs => Memory.putAll (m.put a b) (a + 1) bs

/-- The image fits: `L <= MEM_SIZE - 0x200` (R305). -/
def romFits (size : Config.MemSize) (image : List Byte) : Bool := decide (image.length ≤ size.bytes - 0x200)

/-- LoadGame(image): the size check, Init, the copy to 0x200, LOADED <- 1; a refused load leaves the state (R305, R306). FAULT is
not cleared (R272). -/
def loadGame (image : List Byte) (s : State) : LoadResult × State :=
  if romFits s.cfg.memSize image then
    (.ok, { s.init with mem := s.init.mem.putAll 0x200 image, loaded := true })
  else (.romTooLarge, s)

/-- The host's actions that change the core (R289), each taken only between ticks (R69). -/
inductive HostAction where
  /-- `TICK` (R122) -/
  | tick
  /-- `LOAD(image)` (R305) -/
  | load (image : List Byte)
  /-- A write of the quirk flags (R68) -/
  | setQuirks (q : Config.Quirks)
  /-- A write of `SPEED` (R68) -/
  | setSpeed (n : Nat)
  /-- Key samples for the coming cycles, one per cycle (R66) -/
  | supplyKeys (samples : List Keys)
  deriving DecidableEq, Repr

/-- The effect of a host action (R289). -/
def hostStep (a : HostAction) (s : State) : Host.Outcome State Fault Refusal :=
  match a with
  | .tick => tick s
  | .load image => .next (loadGame image s).2
  | .setQuirks q => .next { s with cfg := { s.cfg with quirks := q } }
  | .setSpeed n => .next { s with cfg := { s.cfg with speed := n } }
  | .supplyKeys samples => .next { s with keySamples := s.keySamples ++ samples }

end Sys2Proof.Machine
end

