-- ==== Sys2Proof/Safety.lean ====
section
/-! DEFINITION. The terms the statements use: what a step leaves unchanged (frames), the invariant of the core, the encoding line of
a rule, and the pixels a sprite covers. -/

namespace Sys2Proof.Machine

/-- The parts of the state a frame names. `mem` stands for the contents of memory, `inputs` for the two lists of supplied inputs and
their counters. -/
inductive Part where
  | v | i | pc | sp | stack | dt | st | mode | fb | redraw | rpl | keys | opcode | mem | loaded | fault | cfg | trace
  | keyInput | randomInput | initDraw
  deriving DecidableEq, Repr

/-- `t` agrees with `s` on every part of the state but the ones listed. Memory agrees when every byte reads as before. -/
def SameOutside (parts : List Part) (s t : State) : Prop :=
  (.v ∈ parts ∨ t.v = s.v) ∧
  (.i ∈ parts ∨ t.i = s.i) ∧
  (.pc ∈ parts ∨ t.pc = s.pc) ∧
  (.sp ∈ parts ∨ t.sp = s.sp) ∧
  (.stack ∈ parts ∨ t.stack = s.stack) ∧
  (.dt ∈ parts ∨ t.dt = s.dt) ∧
  (.st ∈ parts ∨ t.st = s.st) ∧
  (.mode ∈ parts ∨ t.mode = s.mode) ∧
  (.fb ∈ parts ∨ t.fb = s.fb) ∧
  (.redraw ∈ parts ∨ t.redraw = s.redraw) ∧
  (.rpl ∈ parts ∨ t.rpl = s.rpl) ∧
  (.keys ∈ parts ∨ t.keys = s.keys) ∧
  (.opcode ∈ parts ∨ t.opcode = s.opcode) ∧
  (.mem ∈ parts ∨ ∀ a, t.byte a = s.byte a) ∧
  (.loaded ∈ parts ∨ t.loaded = s.loaded) ∧
  (.fault ∈ parts ∨ t.fault = s.fault) ∧
  (.cfg ∈ parts ∨ t.cfg = s.cfg) ∧
  (.trace ∈ parts ∨ t.trace = s.trace) ∧
  (.keyInput ∈ parts ∨ (t.keySamples = s.keySamples ∧ t.keyDraw = s.keyDraw)) ∧
  (.randomInput ∈ parts ∨ (t.randomBytes = s.randomBytes ∧ t.randomDraw = s.randomDraw)) ∧
  (.initDraw ∈ parts ∨ t.initDraw = s.initDraw)

/-- Every general register but the ones listed holds what it held. -/
def RegsSame (written : List Nibble) (s t : State) : Prop := ∀ r : Nibble, r ∉ written → t.reg r = s.reg r

/-- Every byte of memory outside the `n` bytes at `a` reads as before. -/
def BytesSameOutside (a n : Nat) (s t : State) : Prop := ∀ b, b < a ∨ a + n ≤ b → t.byte b = s.byte b

/-- The encoding line of an instruction's rule: every word that equals `value` under `mask` decodes to the instruction built from its
fields. -/
def EncodedAs (mask value : Word) (build : Word → Instr) : Prop :=
  ∀ w : Word, w &&& mask = value → decodeWord w = build w

/-- The output frame holds cells of its mode, each once. -/
def Event.wf : Event → Bool
  | .frame fb m => fb.wf && fb.fits m
  | .beep => true

/-- The invariant of the core between cycles: memory and framebuffer in canonical form and within their sizes (R47, R34, R36), SP
legal (R30), REDRAW 0 (R123), and every frame emitted a framebuffer of its mode (R67). -/
abbrev State.Inv (s : State) : Prop :=
  s.mem.wf = true ∧ s.mem.below s.cfg.memSize.bytes = true ∧ s.fb.wf = true ∧ s.fb.fits s.mode = true ∧ s.sp ≤ 16 ∧
  s.redraw = false ∧ s.trace.all Event.wf = true

/-- An outcome with the sound timer and the opcode latch of its next state blotted out: what a program can see of it (R32, R42). -/
def hideStOpcode : Host.Outcome State Fault Refusal → Host.Outcome State Fault Refusal
  | .next t => .next { t with st := 0, opcode := 0 }
  | .fault f => .fault f
  | .refused r => .refused r

/-- DXYN draws its 16 x 16 form in this state (R210, R212). -/
abbrev WideForm (s : State) (n : Nibble) : Prop := n = 0 ∧ s.mode = .high

/-- The bit of sprite row `r`, column `c` (leftmost 0) that DXYN draws: in the wide form bit `15 - c` of the two bytes at `I + 2r`,
the lower address high; else bit `7 - c` of the byte at `I + r` (R212, R216). -/
abbrev SpriteBit (s : State) (n : Nibble) (r c : Nat) : Prop :=
  if WideForm s n then
    r < 16 ∧ c < 16 ∧
      ((s.byte (s.i.toNat + 2 * r)).toNat * 256 + (s.byte (s.i.toNat + 2 * r + 1)).toNat).testBit (15 - c) = true
  else r < n.toNat ∧ c < 8 ∧ (s.byte (s.i.toNat + r)).toNat.testBit (7 - c) = true

/-- A set bit of the sprite of DXYN X, Y, N falls on cell `k`: the pixel is visible under the clipping rule (R213) and its row-major
index is `k` (R35, R211). -/
def SpriteCovers (s : State) (x y n : Nibble) (k : Nat) : Prop :=
  ∃ r c, SpriteBit s n r c ∧ k = ((s.reg y).toNat + r) * s.mode.width + ((s.reg x).toNat + c) ∧
    (match s.cfg.drawClip with
      | .indexOnly => k < s.mode.width * s.mode.height
      | .perAxis => (s.reg x).toNat + c < s.mode.width ∧ (s.reg y).toNat + r < s.mode.height)

end Sys2Proof.Machine
end

