-- ==== Sys2Proof/Certificates/Slice0/Obligations.lean ====
section
/-! DEFINITION. The statements for the provers. Each docstring names the rules of spec/ it formalises; where a clause rests on a
decision or an inference the spec marks as its own, or on a choice of the model, the docstring says so. -/

open Sys2Proof Sys2Proof.Machine

/-! ### Reset -/

/-- R55 and R57: after Init every general register is 0 and PC is 0x200. -/
def Obligations.InitClearsRegistersAndSetsPc : Prop := ∀ s : State, (∀ r : Nibble, s.init.reg r = 0) ∧ s.init.pc = 0x200

/-- R303 with R55 to R64 (the spec's decisions D25 and D41): the construction state. LOADED is 0, FAULT none, the fonts lie at 0..79
and 80..239, and the rest of memory and the RPL bank hold the draws MEM_INIT and RPL_INIT of their number (the spec's decisions D26,
D27; log entries 4 and 5), whatever their values. -/
def Obligations.ConstructionState : Prop :=
  (∀ r : Nibble, State.reset.reg r = 0) ∧ State.reset.pc = 0x200 ∧ State.reset.i = 0 ∧ State.reset.sp = 0 ∧
  (∀ k : Fin 16, State.reset.stack[k] = 0) ∧ State.reset.dt = 0 ∧ State.reset.st = 0 ∧
  State.reset.mode = .low ∧ (∀ k, State.reset.fb.lit k = false) ∧ State.reset.redraw = false ∧
  (∀ k : Fin 16, State.reset.keys[k] = false) ∧ State.reset.opcode = 0 ∧ State.reset.loaded = false ∧ State.reset.fault = none ∧
  (∀ k : Fin 80, State.reset.byte k = State.reset.cfg.fontLo[k]) ∧
  (∀ k : Fin 160, State.reset.byte (80 + k) = State.reset.cfg.fontHi[k]) ∧
  (∀ a, 240 ≤ a → State.reset.byte a = Config.memInit State.reset.initDraw a) ∧
  State.reset.rpl = Config.rplInit State.reset.initDraw

/-- The invariant of the core holds at reset. -/
def Obligations.ResetMeetsCoreInvariant : Prop := State.reset.Inv

/-! ### Invariant -/

/-- Every step keeps the invariant: memory and framebuffer canonical and within their sizes, SP legal, REDRAW 0, every emitted frame
a framebuffer of its mode (R30, R34, R36, R47, R123). -/
def Obligations.StepKeepsCoreInvariant : Prop := ∀ s t : State, s.Inv → step s = .next t → t.Inv

/-! ### Encoding -/

/-- Decoding the bytes of a well-formed instruction gives it back, with the bytes after it (R75, R90, R91, R94). -/
def Obligations.DecodeGivesBackEncodedInstruction : Prop :=
  ∀ (i : Instr) (rest : List Byte), i.wellFormed = true → decode (encodeBytes i ++ rest) = .ok (i, rest)

/-- Every word decodes to a well-formed instruction whose encoding is the word: no bit of a word is dropped (R91, R94, R95). -/
def Obligations.EncodeGivesBackDecodedWord : Prop :=
  ∀ w : Word, (decodeWord w).wellFormed = true ∧ encode (decodeWord w) = w

/-- R93 to R95 (R93 with the spec's decision D37): a word matches a row of the opcode map exactly when it decodes to that row's
instruction, and it matches none exactly when it decodes to the unrecognised word itself. -/
def Obligations.DecodeFollowsOpcodeMap : Prop :=
  ∀ w : Word, (∀ r ∈ opcodeMap, (r.accepts w = true ↔ (decodeWord w).row = some r)) ∧
    (recognised w = false ↔ decodeWord w = .unrecognised w)

/-- Words of the spec's test vectors (95) decode to the instructions they stand for. -/
def Obligations.SampleWordsDecode : Prop :=
  decodeWord 0x00C5 = .scd 5 ∧ decodeWord 0x2208 = .call 0x208 ∧ decodeWord 0x4311 = .sneImm 3 0x11 ∧
  decodeWord 0x9120 = .sneReg 1 2 ∧ decodeWord 0x5121 = .unrecognised 0x5121 ∧ decodeWord 0x71FF = .addImm 1 0xFF ∧
  decodeWord 0x8127 = .subn 1 2 ∧ decodeWord 0x8F0E = .shl 15 0 ∧ decodeWord 0xB300 = .jpV0 0x300 ∧
  decodeWord 0xC10F = .rnd 1 0x0F ∧ decodeWord 0xDF01 = .drw 15 0 1 ∧ decodeWord 0xE19E = .skp 1 ∧
  decodeWord 0xE19F = .unrecognised 0xE19F ∧ decodeWord 0xF30A = .ldVxK 3 ∧ decodeWord 0xF265 = .ldVxMem 2

/-! ### The cycle -/

/-- R110 to R114: on a running core, when the two bytes at PC (high byte first) decode to `i`, the step samples the keys, latches the
word, advances PC by 2, executes `i`, and ends the cycle with the timer step and the frame emission unless `i` faulted. -/
def Obligations.StepRunsDecodedInstruction : Prop :=
  ∀ (s : State) (i : Instr), s.loaded = true → s.fault = none → s.pc.toNat + 1 < s.cfg.memSize.bytes →
    decode [s.byte s.pc.toNat, s.byte (s.pc.toNat + 1)] = .ok (i, []) →
    step s =
      (match exec i { s.sampleKeys with
          pc := s.pc + 2, opcode := wordOfBytes (s.byte s.pc.toNat) (s.byte (s.pc.toNat + 1)) } with
        | .next t => .next t.timerStep.emitFrame
        | .fault f => .fault f
        | .refused r => .refused r)

/-- R117, R122, R272, R284 (the spec's decision D30; that a step answers the fault again is the model's, log entry 9): with LOADED = 0
no cycle runs and the state is kept; a faulted core is stopped with its fault, whatever else its state holds. -/
def Obligations.NoCycleWhenIdleOrFaulted : Prop :=
  ∀ s : State, (s.fault = none → s.loaded = false → step s = .next s) ∧ (∀ f, s.fault = some f → step s = .fault f)

/-- R25, R74, R110, R274 (the spec's decisions D2, D3, D38): a fetch that leaves memory faults at its first byte outside, and PC + 1 is
not wrapped. -/
def Obligations.FetchOutsideMemoryFaults : Prop :=
  ∀ s : State, s.loaded = true → s.fault = none → s.cfg.memSize.bytes ≤ s.pc.toNat + 1 →
    step s = .fault (.memOutOfRange (if s.cfg.memSize.bytes ≤ s.pc.toNat then s.pc.toNat else s.pc.toNat + 1))

/-- R75 and R87: the fetch is big-endian and sees every byte stored before it, at once. -/
def Obligations.FetchSeesStoredBytesBigEndian : Prop :=
  ∀ (s t u : State) (hi lo : Byte), memWrite s s.pc.toNat hi = .ok t → memWrite t (s.pc.toNat + 1) lo = .ok u →
    ∃ w, fetch u = .ok w ∧ w.toNat = hi.toNat * 256 + lo.toNat

/-- R66 (the spec's decision D28; the list of samples is the model's, log entry 6): a cycle uses the next key sample of the run, which
stays the key state until the next cycle, unless the cycle executed 00FD, which clears the keys (R61). Exactly one sample is used up:
the first of the list, or, when the list is empty, the next free one. -/
def Obligations.CycleTakesNextKeySample : Prop :=
  ∀ (s t : State) (w : Word), s.loaded = true → s.fault = none → fetch s = .ok w → step s = .next t →
    t.keys = (if decodeWord w = .exit then Vector.replicate 16 false else s.keySamples.headD (Config.keySample s.keyDraw)) ∧
    t.keySamples = s.keySamples.tail ∧ t.keyDraw = (if s.keySamples = [] then s.keyDraw + 1 else s.keyDraw)

/-- R119 (with the events in the order of R114): after every execute step that did not fault, each timer that is not 0 goes down by one,
and the decrement that takes ST from 1 to 0 emits one BEEP. Then a pending redraw emits one FRAME of the current framebuffer and mode
and is cleared. Nothing else changes. -/
def Obligations.TimerStepAfterEveryExecutedCycle : Prop :=
  ∀ (s t : State) (w : Word), s.loaded = true → s.fault = none → fetch s = .ok w →
    exec (decodeWord w) (s.sampleKeys.latch w) = .next t →
    ∃ u, step s = .next u ∧ u.dt.toNat = t.dt.toNat - 1 ∧ u.st.toNat = t.st.toNat - 1 ∧ u.redraw = false ∧
      u.trace = t.trace ++ (if t.st.toNat = 1 then [.beep] else []) ++ (if t.redraw then [.frame t.fb t.mode] else []) ∧
      SameOutside [.dt, .st, .redraw, .trace] t u

/-! ### Memory -/

/-- R73 and R83 (the spec's decisions D2, D3): a byte written is the byte read, every other address reads as before, and an access at or
beyond MEM_SIZE faults with its address. -/
def Obligations.MemoryReadsLastWrite : Prop :=
  ∀ (s : State) (a : Nat) (v : Byte),
    (a < s.cfg.memSize.bytes → ∃ t, memWrite s a v = .ok t ∧ memRead t a = .ok v ∧
      (∀ b, b ≠ a → memRead t b = memRead s b) ∧ SameOutside [.mem] s t) ∧
    (s.cfg.memSize.bytes ≤ a →
      memWrite s a v = .error (.memOutOfRange a) ∧ memRead s a = .error (.memOutOfRange a))

/-! ### Group 0 -/

/-- R116, R137, R138, R139: 00FB, 00FC, 00CN and every unrecognised word (0x0000 is one) have no effect in the execute step, and a
cycle of one of them only advances PC, latches the word, samples the keys and steps the timers and the frame. -/
def Obligations.UnimplementedAndUnrecognisedWordsDoNothing : Prop :=
  EncodedAs 0xFFFF 0x00FB (fun _ => .scr) ∧ EncodedAs 0xFFFF 0x00FC (fun _ => .scl) ∧
  EncodedAs 0xFFF0 0x00C0 (fun w => .scd (fieldN w)) ∧
  (∀ w : Word, recognised w = false → decodeWord w = .unrecognised w) ∧ recognised 0x0000 = false ∧
  (∀ (s : State) (n : Nibble) (w : Word),
    exec .scr s = .next s ∧ exec .scl s = .next s ∧ exec (.scd n) s = .next s ∧ exec (.unrecognised w) s = .next s) ∧
  (∀ (s : State) (w : Word), s.loaded = true → s.fault = none → fetch s = .ok w →
    (w = 0x00FB ∨ w = 0x00FC ∨ w &&& 0xFFF0 = 0x00C0 ∨ recognised w = false) →
    ∃ u, step s = .next u ∧ u.pc = s.pc + 2 ∧ u.opcode = w ∧ u.dt.toNat = s.dt.toNat - 1 ∧ u.st.toNat = s.st.toNat - 1 ∧
      SameOutside [.pc, .opcode, .dt, .st, .keys, .keyInput, .redraw, .trace] s u)

/-- R130: 00E0 clears every cell in either mode and marks a redraw; nothing else changes. -/
def Obligations.ClsClearsFramebuffer : Prop :=
  EncodedAs 0xFFFF 0x00E0 (fun _ => .cls) ∧
  ∀ s : State, ∃ t, exec .cls s = .next t ∧ (∀ k, t.fb.lit k = false) ∧ t.redraw = true ∧ SameOutside [.fb, .redraw] s t

/-- R132 with the spec's decision D6: 00EE takes PC from the newest entry and lowers SP, the entry keeping its value; with no entry it
raises StackUnderflow with the advanced PC. -/
def Obligations.RetPopsReturnAddress : Prop :=
  EncodedAs 0xFFFF 0x00EE (fun _ => .ret) ∧
  ∀ s : State, (s.sp = 0 → exec .ret s = .fault (.stackUnderflow s.pc)) ∧
    (∀ k : Fin 16, s.sp.toNat = k.val + 1 →
      ∃ t, exec .ret s = .next t ∧ t.sp.toNat = k.val ∧ t.pc = s.stack[k] ∧ SameOutside [.sp, .pc] s t)

/-- R133 to R135 (R134 with the spec's decision D24, that REDRAW is not written): 00FF and 00FE set the mode; a change of mode clears the
framebuffer, and naming the current mode changes nothing. -/
def Obligations.ModeSwitchClearsFramebuffer : Prop :=
  EncodedAs 0xFFFF 0x00FF (fun _ => .high) ∧ EncodedAs 0xFFFF 0x00FE (fun _ => .low) ∧
  ∀ s : State,
    (∃ t, exec .high s = .next t ∧ t.mode = .high ∧ (∀ k, t.fb.lit k = (s.fb.lit k && decide (s.mode = .high))) ∧
      (s.mode = .high → t = s) ∧ SameOutside [.mode, .fb] s t) ∧
    (∃ t, exec .low s = .next t ∧ t.mode = .low ∧ (∀ k, t.fb.lit k = (s.fb.lit k && decide (s.mode = .low))) ∧
      (s.mode = .low → t = s) ∧ SameOutside [.mode, .fb] s t)

/-- R136 with R300, R62, R64, R65 (values by the spec's decisions D25 to D27, D41; the numbering of the draws is the model's, log entries 4
and 5): 00FD is the full reset, fonts reinstalled whatever was stored over them, fresh draws for the rest of memory and for RPL, with
LOADED cleared; FAULT, the configuration, the output trace and the inputs of the run stay. -/
def Obligations.ExitResetsAndIdles : Prop :=
  EncodedAs 0xFFFF 0x00FD (fun _ => .exit) ∧
  ∀ s : State, ∃ t, exec .exit s = .next t ∧ t.loaded = false ∧ t.pc = 0x200 ∧ (∀ r, t.reg r = 0) ∧ t.i = 0 ∧ t.sp = 0 ∧
    (∀ k : Fin 16, t.stack[k] = 0 ∧ t.keys[k] = false) ∧ t.dt = 0 ∧ t.st = 0 ∧ t.mode = .low ∧ (∀ k, t.fb.lit k = false) ∧
    t.redraw = false ∧ t.opcode = 0 ∧ (∀ k : Fin 80, t.byte k = s.cfg.fontLo[k]) ∧
    (∀ k : Fin 160, t.byte (80 + k) = s.cfg.fontHi[k]) ∧ t.initDraw = s.initDraw + 1 ∧
    (∀ a, 240 ≤ a → t.byte a = Config.memInit t.initDraw a) ∧ t.rpl = Config.rplInit t.initDraw ∧
    SameOutside [.v, .i, .pc, .sp, .stack, .dt, .st, .mode, .fb, .redraw, .rpl, .keys, .opcode, .mem, .loaded, .initDraw] s t

/-! ### Jumps, calls, skips -/

/-- R150: 1NNN sets PC to NNN and changes nothing else. -/
def Obligations.JumpSetsPc : Prop :=
  EncodedAs 0xF000 0x1000 (fun w => .jp (fieldNNN w)) ∧
  ∀ (s : State) (nnn : Addr12), ∃ t, exec (.jp nnn) s = .next t ∧ t.pc.toNat = nnn.toNat ∧ SameOutside [.pc] s t

/-- R152 with the spec's decision D6: 2NNN stores the advanced PC at Stack[SP], raises SP and jumps; with 16 entries in use it raises
StackOverflow with the advanced PC. -/
def Obligations.CallPushesReturnAddress : Prop :=
  EncodedAs 0xF000 0x2000 (fun w => .call (fieldNNN w)) ∧
  ∀ (s : State) (nnn : Addr12), (s.sp = 16 → exec (.call nnn) s = .fault (.stackOverflow s.pc)) ∧
    (∀ k : Fin 16, s.sp.toNat = k.val →
      ∃ t, exec (.call nnn) s = .next t ∧ t.stack[k] = s.pc ∧ (∀ j : Fin 16, j ≠ k → t.stack[j] = s.stack[j]) ∧
        t.sp.toNat = k.val + 1 ∧ t.pc.toNat = nnn.toNat ∧ SameOutside [.stack, .sp, .pc] s t)

/-- R30, R132, R152: a return right after a call comes back to the instruction after the call, with the stack pointer as before. -/
def Obligations.ReturnUndoesCall : Prop :=
  ∀ (s t : State) (nnn : Addr12) (pc : Word), exec (.call nnn) s = .next t →
    ∃ u, exec .ret { t with pc := pc } = .next u ∧ u.pc = s.pc ∧ u.sp = s.sp

/-- The model's choice (log entry 12): with SP above its legal values 0 to 16 (R30), where no rule gives an effect, 2NNN and 00EE are
refused by name. The invariant excludes such states. -/
def Obligations.IllegalStackPointerIsRefused : Prop :=
  ∀ (s : State) (nnn : Addr12), 16 < s.sp.toNat →
    exec (.call nnn) s = .refused (.illegalStackPointer s.sp) ∧ exec .ret s = .refused (.illegalStackPointer s.sp)

/-- R153, R154: 3XNN and 4XNN move PC on by 2 more when Vx equals, or differs from, NN, and change nothing else. -/
def Obligations.SkipComparesWithImmediate : Prop :=
  EncodedAs 0xF000 0x3000 (fun w => .seImm (fieldX w) (fieldNN w)) ∧
  EncodedAs 0xF000 0x4000 (fun w => .sneImm (fieldX w) (fieldNN w)) ∧
  ∀ (s : State) (x : Nibble) (nn : Byte),
    (∃ t, exec (.seImm x nn) s = .next t ∧ t.pc.toNat = (s.pc.toNat + if s.reg x = nn then 2 else 0) % 65536 ∧
      SameOutside [.pc] s t) ∧
    (∃ t, exec (.sneImm x nn) s = .next t ∧ t.pc.toNat = (s.pc.toNat + if s.reg x = nn then 0 else 2) % 65536 ∧
      SameOutside [.pc] s t)

/-- R155, R156: 5XY0 and 9XY0 move PC on by 2 more when Vx equals, or differs from, Vy; a nonzero last nibble makes the word
unrecognised. -/
def Obligations.SkipComparesRegisters : Prop :=
  EncodedAs 0xF00F 0x5000 (fun w => .seReg (fieldX w) (fieldY w)) ∧
  EncodedAs 0xF00F 0x9000 (fun w => .sneReg (fieldX w) (fieldY w)) ∧
  (∀ w : Word, (w &&& 0xF000 = 0x5000 ∨ w &&& 0xF000 = 0x9000) → fieldN w ≠ 0 → decodeWord w = .unrecognised w) ∧
  ∀ (s : State) (x y : Nibble),
    (∃ t, exec (.seReg x y) s = .next t ∧ t.pc.toNat = (s.pc.toNat + if s.reg x = s.reg y then 2 else 0) % 65536 ∧
      SameOutside [.pc] s t) ∧
    (∃ t, exec (.sneReg x y) s = .next t ∧ t.pc.toNat = (s.pc.toNat + if s.reg x = s.reg y then 0 else 2) % 65536 ∧
      SameOutside [.pc] s t)

/-! ### Register loads and the ALU -/

/-- R170, R171: 6XNN loads NN; 7XNN adds NN modulo 256; neither writes VF but as its destination. -/
def Obligations.ImmediateLoadAndAdd : Prop :=
  EncodedAs 0xF000 0x6000 (fun w => .ldImm (fieldX w) (fieldNN w)) ∧
  EncodedAs 0xF000 0x7000 (fun w => .addImm (fieldX w) (fieldNN w)) ∧
  ∀ (s : State) (x : Nibble) (nn : Byte),
    (∃ t, exec (.ldImm x nn) s = .next t ∧ t.reg x = nn ∧ RegsSame [x] s t ∧ SameOutside [.v] s t) ∧
    (∃ t, exec (.addImm x nn) s = .next t ∧ (t.reg x).toNat = ((s.reg x).toNat + nn.toNat) % 256 ∧ RegsSame [x] s t ∧
      SameOutside [.v] s t)

/-- R173 to R176 (the operations by general knowledge, the spec's D7; no flag, its D10): 8XY0 copies, 8XY1 to 8XY3 are OR, AND and XOR,
bit by bit; VF is not written but as the destination. -/
def Obligations.CopyAndLogicWriteOnlyDestination : Prop :=
  EncodedAs 0xF00F 0x8000 (fun w => .ldReg (fieldX w) (fieldY w)) ∧ EncodedAs 0xF00F 0x8001 (fun w => .orReg (fieldX w) (fieldY w)) ∧
  EncodedAs 0xF00F 0x8002 (fun w => .andReg (fieldX w) (fieldY w)) ∧ EncodedAs 0xF00F 0x8003 (fun w => .xorReg (fieldX w) (fieldY w)) ∧
  ∀ (s : State) (x y : Nibble),
    (∃ t, exec (.ldReg x y) s = .next t ∧ t.reg x = s.reg y ∧ RegsSame [x] s t ∧ SameOutside [.v] s t) ∧
    (∃ t, exec (.orReg x y) s = .next t ∧
      (∀ b < 8, (t.reg x).getLsbD b = ((s.reg x).getLsbD b || (s.reg y).getLsbD b)) ∧ RegsSame [x] s t ∧ SameOutside [.v] s t) ∧
    (∃ t, exec (.andReg x y) s = .next t ∧
      (∀ b < 8, (t.reg x).getLsbD b = ((s.reg x).getLsbD b && (s.reg y).getLsbD b)) ∧ RegsSame [x] s t ∧ SameOutside [.v] s t) ∧
    (∃ t, exec (.xorReg x y) s = .next t ∧
      (∀ b < 8, (t.reg x).getLsbD b = ((s.reg x).getLsbD b ^^ (s.reg y).getLsbD b)) ∧ RegsSame [x] s t ∧ SameOutside [.v] s t)

/-- R177: 8XY4 leaves the sum modulo 256 in Vx and the carry in VF; when Vx is VF itself, the order parameter decides which of the two
it ends as (R172, the spec's decision D9). -/
def Obligations.AddSetsCarry : Prop :=
  EncodedAs 0xF00F 0x8004 (fun w => .addReg (fieldX w) (fieldY w)) ∧
  ∀ (s : State) (x y : Nibble), ∃ t, exec (.addReg x y) s = .next t ∧
    (x ≠ 15 ∨ s.cfg.vfOrder = .resultLast → (t.reg x).toNat = ((s.reg x).toNat + (s.reg y).toNat) % 256) ∧
    (x ≠ 15 ∨ s.cfg.vfOrder = .flagLast → (t.reg 15).toNat = if (s.reg x).toNat + (s.reg y).toNat > 255 then 1 else 0) ∧
    RegsSame [x, 15] s t ∧ SameOutside [.v] s t

/-- R180, R182 with R172 and R178 (operations by general knowledge, the spec's D7 and D8): 8XY5 leaves Vx - Vy and 8XY7 leaves Vy - Vx,
modulo 256, and VF is 1 for no borrow; on equal operands the parameter decides. -/
def Obligations.SubtractSetsNoBorrow : Prop :=
  EncodedAs 0xF00F 0x8005 (fun w => .sub (fieldX w) (fieldY w)) ∧ EncodedAs 0xF00F 0x8007 (fun w => .subn (fieldX w) (fieldY w)) ∧
  ∀ (s : State) (x y : Nibble),
    (∃ t, exec (.sub x y) s = .next t ∧
      (x ≠ 15 ∨ s.cfg.vfOrder = .resultLast → (t.reg x).toNat = ((s.reg x).toNat + 256 - (s.reg y).toNat) % 256) ∧
      (x ≠ 15 ∨ s.cfg.vfOrder = .flagLast → (t.reg 15).toNat =
        if (s.reg y).toNat < (s.reg x).toNat ∨ (s.reg x = s.reg y ∧ s.cfg.subFlag = .ge) then 1 else 0) ∧
      RegsSame [x, 15] s t ∧ SameOutside [.v] s t) ∧
    (∃ t, exec (.subn x y) s = .next t ∧
      (x ≠ 15 ∨ s.cfg.vfOrder = .resultLast → (t.reg x).toNat = ((s.reg y).toNat + 256 - (s.reg x).toNat) % 256) ∧
      (x ≠ 15 ∨ s.cfg.vfOrder = .flagLast → (t.reg 15).toNat =
        if (s.reg x).toNat < (s.reg y).toNat ∨ (s.reg x = s.reg y ∧ s.cfg.subFlag = .ge) then 1 else 0) ∧
      RegsSame [x, 15] s t ∧ SameOutside [.v] s t)

/-- R179, R181, R183 with R172 (directions by general knowledge, the spec's G3): 8XY6 halves and 8XYE doubles the source, Vy under the
shift quirk and Vx otherwise, and VF is the bit shifted out. -/
def Obligations.ShiftSetsShiftedBit : Prop :=
  EncodedAs 0xF00F 0x8006 (fun w => .shr (fieldX w) (fieldY w)) ∧ EncodedAs 0xF00F 0x800E (fun w => .shl (fieldX w) (fieldY w)) ∧
  ∀ (s : State) (x y : Nibble) (src : Byte), src = (if s.cfg.quirks.shiftVy then s.reg y else s.reg x) →
    (∃ t, exec (.shr x y) s = .next t ∧
      (x ≠ 15 ∨ s.cfg.vfOrder = .resultLast → (t.reg x).toNat = src.toNat / 2) ∧
      (x ≠ 15 ∨ s.cfg.vfOrder = .flagLast → (t.reg 15).toNat = src.toNat % 2) ∧ RegsSame [x, 15] s t ∧ SameOutside [.v] s t) ∧
    (∃ t, exec (.shl x y) s = .next t ∧
      (x ≠ 15 ∨ s.cfg.vfOrder = .resultLast → (t.reg x).toNat = src.toNat * 2 % 256) ∧
      (x ≠ 15 ∨ s.cfg.vfOrder = .flagLast → (t.reg 15).toNat = src.toNat / 128) ∧ RegsSame [x, 15] s t ∧ SameOutside [.v] s t)

/-! ### Index, offset jump, random -/

/-- R200: ANNN sets I to NNN and changes nothing else. -/
def Obligations.LoadIndexSetsI : Prop :=
  EncodedAs 0xF000 0xA000 (fun w => .ldI (fieldNNN w)) ∧
  ∀ (s : State) (nnn : Addr12), ∃ t, exec (.ldI nnn) s = .next t ∧ t.i.toNat = nnn.toNat ∧ SameOutside [.i] s t

/-- R201: BNNN sets PC to the full NNN plus V0, or plus the register that NNN's high nibble names under the jump quirk. The sum fits
16 bits; no check is made at the jump. -/
def Obligations.OffsetJumpAddsRegister : Prop :=
  EncodedAs 0xF000 0xB000 (fun w => .jpV0 (fieldNNN w)) ∧ (∀ w : Word, jumpRegister (fieldNNN w) = fieldX w) ∧
  ∀ (s : State) (nnn : Addr12), ∃ t, exec (.jpV0 nnn) s = .next t ∧
    t.pc.toNat = nnn.toNat + (if s.cfg.quirks.jumpVx then s.reg (BitVec.ofNat 4 (nnn.toNat / 256)) else s.reg 0).toNat ∧
    SameOutside [.pc] s t

/-- R202 and R203 (the spec's decision D21; the list of bytes is the model's, log entry 7): CXNN leaves in Vx the next byte of the
oracle, whatever it is, masked by NN, and uses up exactly one byte. -/
def Obligations.RandomByteIsMasked : Prop :=
  EncodedAs 0xF000 0xC000 (fun w => .rnd (fieldX w) (fieldNN w)) ∧
  ∀ (s : State) (x : Nibble) (nn : Byte),
    (∃ t r, exec (.rnd x nn) s = .next t ∧ r = s.randomBytes.headD (Config.randomByte s.randomDraw) ∧
      (∀ b < 8, (t.reg x).getLsbD b = (r.getLsbD b && nn.getLsbD b)) ∧ t.randomBytes = s.randomBytes.tail ∧
      t.randomDraw = (if s.randomBytes = [] then s.randomDraw + 1 else s.randomDraw) ∧ RegsSame [x] s t ∧
      SameOutside [.v, .randomInput] s t)

/-! ### Draw -/

/-- R210 to R216 (with the spec's decisions D13 to D16, D18, D35): when the sprite lies in memory, DXYN flips exactly the cells its
visible set bits fall on, sets VF to 1 exactly when one of them was lit, and marks a redraw. N = 0 in Low mode reads and flips nothing. -/
def Obligations.DrawFlipsCoveredCells : Prop :=
  EncodedAs 0xF000 0xD000 (fun w => .drw (fieldX w) (fieldY w) (fieldN w)) ∧
  ∀ (s : State) (x y n : Nibble),
    (s.i.toNat + (if WideForm s n then 32 else n.toNat) ≤ s.cfg.memSize.bytes ∨ (n = 0 ∧ s.mode = .low)) →
    ∃ t, exec (.drw x y n) s = .next t ∧
      (∀ k, SpriteCovers s x y n k → t.fb.lit k = !s.fb.lit k) ∧ (∀ k, ¬ SpriteCovers s x y n k → t.fb.lit k = s.fb.lit k) ∧
      ((∃ k, SpriteCovers s x y n k ∧ s.fb.lit k = true) → t.reg 15 = 1) ∧
      ((∀ k, SpriteCovers s x y n k → s.fb.lit k = false) → t.reg 15 = 0) ∧
      t.redraw = true ∧ RegsSame [15] s t ∧ SameOutside [.v, .fb, .redraw] s t

/-- R217 and R274 (the spec's decisions D2, D17, D38): a sprite that leaves memory faults at the lowest address outside it, even when no
pixel of that row is visible. -/
def Obligations.DrawOutsideMemoryFaults : Prop :=
  ∀ (s : State) (x y n : Nibble), (n ≠ 0 ∨ s.mode = .high) →
    s.cfg.memSize.bytes < s.i.toNat + (if WideForm s n then 32 else n.toNat) →
    exec (.drw x y n) s = .fault (.memOutOfRange (if s.cfg.memSize.bytes ≤ s.i.toNat then s.i.toNat else s.cfg.memSize.bytes))

/-! ### Keys -/

/-- R230 to R232 (R232 with the spec's decision D19): EX9E skips when key Vx is down, EXA1 when it is up; a key number above 15 faults
with its value. -/
def Obligations.KeyTestsSkip : Prop :=
  EncodedAs 0xF0FF 0xE09E (fun w => .skp (fieldX w)) ∧ EncodedAs 0xF0FF 0xE0A1 (fun w => .sknp (fieldX w)) ∧
  ∀ (s : State) (x : Nibble),
    (∀ k : Fin 16, (s.reg x).toNat = k.val →
      (∃ t, exec (.skp x) s = .next t ∧ t.pc.toNat = (s.pc.toNat + if s.keys[k] then 2 else 0) % 65536 ∧ SameOutside [.pc] s t) ∧
      (∃ t, exec (.sknp x) s = .next t ∧ t.pc.toNat = (s.pc.toNat + if s.keys[k] then 0 else 2) % 65536 ∧ SameOutside [.pc] s t)) ∧
    (15 < (s.reg x).toNat →
      exec (.skp x) s = .fault (.keyIndexOutOfRange (s.reg x)) ∧ exec (.sknp x) s = .fault (.keyIndexOutOfRange (s.reg x)))

/-! ### Group F -/

/-- R240, R242, R243, with the same cycle's timer step (an inference the spec marks as its own there): FX07 reads DT before the step; FX15
and FX18 write their timer, which the step then lowers; FX18 beeps in its own cycle exactly when it wrote 1. -/
def Obligations.TimerInstructions : Prop :=
  EncodedAs 0xF0FF 0xF007 (fun w => .ldVxDt (fieldX w)) ∧ EncodedAs 0xF0FF 0xF015 (fun w => .ldDtVx (fieldX w)) ∧
  EncodedAs 0xF0FF 0xF018 (fun w => .ldStVx (fieldX w)) ∧
  ∀ (s : State) (x : Nibble),
    (∃ t, exec (.ldVxDt x) s = .next t ∧ t.reg x = s.dt ∧ t.endCycle.dt.toNat = s.dt.toNat - 1 ∧ RegsSame [x] s t ∧
      SameOutside [.v] s t) ∧
    (∃ t, exec (.ldDtVx x) s = .next t ∧ t.dt = s.reg x ∧ t.endCycle.dt.toNat = (s.reg x).toNat - 1 ∧ SameOutside [.dt] s t) ∧
    (∃ t, exec (.ldStVx x) s = .next t ∧ t.st = s.reg x ∧ t.endCycle.st.toNat = (s.reg x).toNat - 1 ∧
      (t.timerStep.trace = s.trace ++ [.beep] ↔ (s.reg x).toNat = 1) ∧ SameOutside [.st] s t)

/-- R241: FX0A takes the lowest key that is down in this cycle's sample; with all keys up it sets PC back by 2, to its own address. -/
def Obligations.KeyWaitTakesLowestKey : Prop :=
  EncodedAs 0xF0FF 0xF00A (fun w => .ldVxK (fieldX w)) ∧
  ∀ (s : State) (x : Nibble),
    (∀ k : Fin 16, s.keys[k] = true → (∀ j : Fin 16, j < k → s.keys[j] = false) →
      ∃ t, exec (.ldVxK x) s = .next t ∧ (t.reg x).toNat = k.val ∧ RegsSame [x] s t ∧ SameOutside [.v] s t) ∧
    ((∀ k : Fin 16, s.keys[k] = false) →
      ∃ t, exec (.ldVxK x) s = .next t ∧ t.pc.toNat = (s.pc.toNat + 65536 - 2) % 65536 ∧ SameOutside [.pc] s t)

/-- The source's FX0A property (95 E2, R241, R322): a waiting cycle with every key of its sample up leaves PC and all registers as they
were, while the timers keep counting down. -/
def Obligations.KeyWaitReexecutesWhileNoKeyIsDown : Prop :=
  ∀ (s : State) (w : Word), s.loaded = true → s.fault = none → fetch s = .ok w → w &&& 0xF0FF = 0xF00A →
    (∀ k : Fin 16, (s.keySamples.headD (Config.keySample s.keyDraw))[k] = false) →
    ∃ u, step s = .next u ∧ u.pc = s.pc ∧ u.dt.toNat = s.dt.toNat - 1 ∧ u.st.toNat = s.st.toNat - 1 ∧
      SameOutside [.dt, .st, .keys, .keyInput, .opcode, .redraw, .trace] s u

/-- R248 (the parameter of the spec's decision D11): FX1E adds Vx to I modulo 2^16; VF changes only under `overflow`, where it says
whether the sum exceeds MEM_SIZE - 1. -/
def Obligations.AddIndexWrapsAt16Bits : Prop :=
  EncodedAs 0xF0FF 0xF01E (fun w => .addI (fieldX w)) ∧
  ∀ (s : State) (x : Nibble), ∃ t, exec (.addI x) s = .next t ∧ t.i.toNat = (s.i.toNat + (s.reg x).toNat) % 65536 ∧
    (s.cfg.fx1eVf = .unaffected → SameOutside [.i] s t) ∧
    (s.cfg.fx1eVf = .overflow →
      (t.reg 15).toNat = (if s.i.toNat + (s.reg x).toNat > s.cfg.memSize.bytes - 1 then 1 else 0) ∧ RegsSame [15] s t ∧
        SameOutside [.i, .v] s t)

/-- R249, R250: FX29 sets I to 5 * Vx and FX30 to 10 * Vx + 80, with Vx unmasked. -/
def Obligations.FontIndexFromRegister : Prop :=
  EncodedAs 0xF0FF 0xF029 (fun w => .ldF (fieldX w)) ∧ EncodedAs 0xF0FF 0xF030 (fun w => .ldHf (fieldX w)) ∧
  ∀ (s : State) (x : Nibble),
    (∃ t, exec (.ldF x) s = .next t ∧ t.i.toNat = (s.reg x).toNat * 5 ∧ SameOutside [.i] s t) ∧
    (∃ t, exec (.ldHf x) s = .next t ∧ t.i.toNat = (s.reg x).toNat * 10 + 80 ∧ SameOutside [.i] s t)

/-- R251: FX33 stores the hundreds, tens and ones of Vx at I, I + 1, I + 2 and changes nothing else; it faults at the first of the three
addresses that lies outside memory. -/
def Obligations.BcdStoresDigits : Prop :=
  EncodedAs 0xF0FF 0xF033 (fun w => .ldB (fieldX w)) ∧
  ∀ (s : State) (x : Nibble),
    (s.i.toNat + 2 < s.cfg.memSize.bytes →
      ∃ t, exec (.ldB x) s = .next t ∧ (t.byte s.i.toNat).toNat = (s.reg x).toNat / 100 ∧
        (t.byte (s.i.toNat + 1)).toNat = (s.reg x).toNat / 10 % 10 ∧ (t.byte (s.i.toNat + 2)).toNat = (s.reg x).toNat % 10 ∧
        BytesSameOutside s.i.toNat 3 s t ∧ SameOutside [.mem] s t) ∧
    (s.cfg.memSize.bytes ≤ s.i.toNat + 2 →
      exec (.ldB x) s = .fault (.memOutOfRange (if s.cfg.memSize.bytes ≤ s.i.toNat then s.i.toNat else s.cfg.memSize.bytes)))

/-- R252: FX55 stores V0 to Vx at I, I + 1, ...; I moves on by X + 1, modulo 2^16, under the increment quirk only; it faults at the
lowest address outside memory when the block leaves memory (the spec's decisions D2, D38). -/
def Obligations.BlockStoreCopiesRegisters : Prop :=
  EncodedAs 0xF0FF 0xF055 (fun w => .ldMemVx (fieldX w)) ∧
  ∀ (s : State) (x : Nibble),
    (s.i.toNat + x.toNat < s.cfg.memSize.bytes →
      ∃ t, exec (.ldMemVx x) s = .next t ∧ (∀ k : Nibble, k.toNat ≤ x.toNat → t.byte (s.i.toNat + k.toNat) = s.reg k) ∧
        BytesSameOutside s.i.toNat (x.toNat + 1) s t ∧
        t.i.toNat = (if s.cfg.quirks.incI then (s.i.toNat + x.toNat + 1) % 65536 else s.i.toNat) ∧ SameOutside [.mem, .i] s t) ∧
    (s.cfg.memSize.bytes ≤ s.i.toNat + x.toNat →
      exec (.ldMemVx x) s =
        .fault (.memOutOfRange (if s.cfg.memSize.bytes ≤ s.i.toNat then s.i.toNat else s.cfg.memSize.bytes)))

/-- R253: FX65 loads V0 to Vx from I, I + 1, ..., each register above Vx kept; I moves on by X + 1, modulo 2^16, under the increment
quirk only; it faults at the lowest address outside memory when the block leaves memory (the spec's decisions D2, D38). -/
def Obligations.BlockLoadFillsRegisters : Prop :=
  EncodedAs 0xF0FF 0xF065 (fun w => .ldVxMem (fieldX w)) ∧
  ∀ (s : State) (x : Nibble),
    (s.i.toNat + x.toNat < s.cfg.memSize.bytes →
      ∃ t, exec (.ldVxMem x) s = .next t ∧
        (∀ k : Nibble, t.reg k = if k.toNat ≤ x.toNat then s.byte (s.i.toNat + k.toNat) else s.reg k) ∧
        t.i.toNat = (if s.cfg.quirks.incI then (s.i.toNat + x.toNat + 1) % 65536 else s.i.toNat) ∧ SameOutside [.v, .i] s t) ∧
    (s.cfg.memSize.bytes ≤ s.i.toNat + x.toNat →
      exec (.ldVxMem x) s =
        .fault (.memOutOfRange (if s.cfg.memSize.bytes ≤ s.i.toNat then s.i.toNat else s.cfg.memSize.bytes)))

/-- R254 to R256 (R256 with the spec's decision D20): FX75 saves V0 to Vx in the RPL bank and FX85 restores them, each touching only the
X + 1 entries it names; X above 7 faults before any transfer. -/
def Obligations.RplSaveAndRestore : Prop :=
  EncodedAs 0xF0FF 0xF075 (fun w => .ldRVx (fieldX w)) ∧ EncodedAs 0xF0FF 0xF085 (fun w => .ldVxR (fieldX w)) ∧
  ∀ (s : State) (x : Nibble),
    (x.toNat ≤ 7 →
      (∃ t, exec (.ldRVx x) s = .next t ∧
        (∀ k : Fin 8, t.rpl[k] = if k.val ≤ x.toNat then s.reg (BitVec.ofNat 4 k.val) else s.rpl[k]) ∧ SameOutside [.rpl] s t) ∧
      (∃ t, exec (.ldVxR x) s = .next t ∧
        (∀ k : Fin 8, k.val ≤ x.toNat → t.reg (BitVec.ofNat 4 k.val) = s.rpl[k]) ∧
        (∀ r : Nibble, x.toNat < r.toNat → t.reg r = s.reg r) ∧ SameOutside [.v] s t)) ∧
    (7 < x.toNat →
      exec (.ldRVx x) s = .fault (.rplIndexOutOfRange x) ∧ exec (.ldVxR x) s = .fault (.rplIndexOutOfRange x))

/-! ### Whole-machine rules -/

/-- R44: no instruction, no reset and no load changes the quirk flags (nor any other configuration); a host write of the flags changes
only them, and one of SPEED (R68) only SPEED. -/
def Obligations.OnlyHostWritesChangeQuirks : Prop :=
  (∀ s t : State, step s = .next t → t.cfg = s.cfg) ∧ (∀ s : State, s.init.cfg = s.cfg) ∧
  (∀ (s : State) (image : List Byte), (loadGame image s).2.cfg = s.cfg) ∧
  (∀ (s : State) (q : Config.Quirks), ∃ t, hostStep (.setQuirks q) s = .next t ∧ t.cfg = { s.cfg with quirks := q } ∧
    SameOutside [.cfg] s t) ∧
  (∀ (s : State) (n : Nat), ∃ t, hostStep (.setSpeed n) s = .next t ∧ t.cfg = { s.cfg with speed := n } ∧ SameOutside [.cfg] s t)

/-- R33: MODE is High (128 x 64) or Low (64 x 32); 00FF sets High, 00FE sets Low, 00FD's Init sets Low, and no other instruction changes
it. -/
def Obligations.OnlyModeInstructionsChangeMode : Prop :=
  Mode.low.width = 64 ∧ Mode.low.height = 32 ∧ Mode.high.width = 128 ∧ Mode.high.height = 64 ∧
  ∀ (i : Instr) (s t : State), exec i s = .next t →
    (i = .high → t.mode = .high) ∧ (i = .low → t.mode = .low) ∧ (i = .exit → t.mode = .low) ∧
    (i ≠ .high → i ≠ .low → i ≠ .exit → t.mode = s.mode)

/-- R29 (and 00FD's Init, R300): no instruction but 2NNN, 00EE and 00FD changes the stack or its pointer, and none but 2NNN and 00EE
depends on them. -/
def Obligations.OnlyCallAndReturnUseStack : Prop :=
  ∀ (i : Instr) (s : State) (stack : Vector Word 16) (sp : Word), (∀ nnn, i ≠ .call nnn) → i ≠ .ret → i ≠ .exit →
    (∀ t, exec i s = .next t → t.stack = s.stack ∧ t.sp = s.sp ∧
      exec i { s with stack := stack, sp := sp } = .next { t with stack := stack, sp := sp }) ∧
    (∀ f, exec i s = .fault f → exec i { s with stack := stack, sp := sp } = .fault f)

/-- R72 (an inference the spec marks as its own), R81: only FX33 and FX55 store to memory; only 00FD's Init resets it. -/
def Obligations.OnlyStoresChangeMemory : Prop :=
  ∀ (i : Instr) (s t : State), exec i s = .next t → (∀ x, i ≠ .ldB x) → (∀ x, i ≠ .ldMemVx x) → i ≠ .exit →
    ∀ a, t.byte a = s.byte a

/-- R39, R40 (and 00FD's Init, R300): no instruction but FX75 and 00FD writes the RPL bank, and none but 00FD writes the keys. -/
def Obligations.OnlySaveWritesRplAndNoneWritesKeys : Prop :=
  ∀ (i : Instr) (s t : State), exec i s = .next t → i ≠ .exit → t.keys = s.keys ∧ ((∀ x, i ≠ .ldRVx x) → t.rpl = s.rpl)

/-- R32, R42: no instruction reads ST or OPCODE. Two states that differ in nothing else give the same outcome up to those two. -/
def Obligations.NoInstructionReadsStOrOpcode : Prop :=
  ∀ (i : Instr) (s : State) (st : Byte) (opcode : Word),
    hideStOpcode (exec i { s with st := st, opcode := opcode }) = hideStOpcode (exec i s)

/-- R115, R271 to R274 (the spec's decisions D2, D6, D19, D20): an instruction raises only its own kind of fault, and a jump, ALU, timer,
index, mode or unrecognised word raises none. -/
def Obligations.FaultsComeFromTheirInstructions : Prop :=
  ∀ (i : Instr) (s : State) (f : Fault), exec i s = .fault f →
    (∃ a, f = .memOutOfRange a ∧ s.cfg.memSize.bytes ≤ a ∧
      ((∃ x y n, i = .drw x y n) ∨ (∃ x, i = .ldB x) ∨ (∃ x, i = .ldMemVx x) ∨ (∃ x, i = .ldVxMem x))) ∨
    (f = .stackOverflow s.pc ∧ s.sp = 16 ∧ ∃ nnn, i = .call nnn) ∨
    (f = .stackUnderflow s.pc ∧ s.sp = 0 ∧ i = .ret) ∨
    (∃ x, f = .keyIndexOutOfRange (s.reg x) ∧ 15 < (s.reg x).toNat ∧ (i = .skp x ∨ i = .sknp x)) ∨
    (∃ x, f = .rplIndexOutOfRange x ∧ 7 < x.toNat ∧ (i = .ldRVx x ∨ i = .ldVxR x))

/-- R25, R110, R325: a core that meets the invariant never refuses a step. -/
def Obligations.NoStepIsRefusedUnderInvariant : Prop := ∀ (s : State) (r : Refusal), s.Inv → step s ≠ .refused r

/-! ### Driver and loader -/

/-- R305, R306, R307 (fresh draws and zero values as in R300 and R62, the spec's decisions D25 to D27; log entries 4 and 5): an image
that fits is copied to 0x200 after a full reset, which reinstalls the fonts below it, and LOADED is set; one that does not fit leaves
the state; FAULT is kept in both cases (R272); and the loaded core meets the invariant if its emitted frames did. -/
def Obligations.LoadGameCopiesImage : Prop :=
  ∀ (s : State) (image : List Byte),
    (image.length + 0x200 ≤ s.cfg.memSize.bytes →
      ∃ t, loadGame image s = (.ok, t) ∧ t.loaded = true ∧ t.fault = s.fault ∧
        (∀ j (h : j < image.length), t.byte (0x200 + j) = image[j]) ∧
        (∀ a, a < 0x200 ∨ 0x200 + image.length ≤ a → t.byte a = s.init.byte a) ∧ t.initDraw = s.initDraw + 1 ∧
        (∀ a, 240 ≤ a → a < 0x200 ∨ 0x200 + image.length ≤ a → t.byte a = Config.memInit t.initDraw a) ∧
        t.rpl = Config.rplInit t.initDraw ∧
        (∀ k : Fin 80, t.byte k = s.cfg.fontLo[k]) ∧ (∀ k : Fin 160, t.byte (80 + k) = s.cfg.fontHi[k]) ∧
        SameOutside [.mem, .loaded] s.init t ∧ (s.trace.all Event.wf = true → t.Inv)) ∧
    (s.cfg.memSize.bytes < image.length + 0x200 → loadGame image s = (.romTooLarge, s))

/-- R308: after a successful load PC is 0x200, and the registers, stack, keys and framebuffer are all zero. -/
def Obligations.LoadedCoreStartsClear : Prop :=
  ∀ (s t : State) (image : List Byte), loadGame image s = (.ok, t) →
    t.pc = 0x200 ∧ (∀ r, t.reg r = 0) ∧ (∀ k : Fin 16, t.stack[k] = 0 ∧ t.keys[k] = false) ∧ (∀ k, t.fb.lit k = false)

/-- R122, R284, R272 (the spec's decisions D29, D30): a tick of an idle or faulted core does nothing, and loading a ROM does not wake a
faulted one. -/
def Obligations.TickOfStoppedCoreDoesNothing : Prop :=
  ∀ (s : State) (image : List Byte), (s.loaded = false ∨ s.fault ≠ none → tick s = .next s) ∧
    (s.fault ≠ none → tick (loadGame image s).2 = .next (loadGame image s).2)

/-- R122 (the spec's decisions D29, D30): a tick is `9 * SPEED` cycles of the driver's loop. The loop runs a cycle exactly when LOADED is
1 and FAULT is none: it goes on from the state that cycle leaves, and a cycle that faults ends it with the fault recorded. `m + n`
cycles are `m` cycles and then `n` more from where they end, and nothing more runs once the core has become idle. -/
def Obligations.DriverLoopComposes : Prop :=
  (∀ s : State, hostStep .tick s = tick s ∧ tick s = runCycles (9 * s.cfg.speed) s ∧ runCycles 0 s = .next s) ∧
  (∀ (n : Nat) (s : State), s.loaded = true → s.fault = none →
    (∀ u, step s = .next u → runCycles (n + 1) s = runCycles n u) ∧
    (∀ f, step s = .fault f → runCycles (n + 1) s = .next (s.raise f)) ∧
    (∀ r, step s = .refused r → runCycles (n + 1) s = .refused r)) ∧
  (∀ (n : Nat) (s : State), s.loaded = false ∨ s.fault ≠ none → runCycles n s = .next s) ∧
  (∀ (m n : Nat) (s t : State), runCycles m s = .next t →
    runCycles (m + n) s = runCycles n t ∧ (t.loaded = false → runCycles (m + n) s = .next t))

/-- R115, R122, R272 (the spec's decision D30): when the first cycle of a tick faults, the tick ends with FAULT holding the fault and its
value, no event emitted and the configuration kept; the driver then stays stopped. The rest of the state is free. -/
def Obligations.FaultingTickRecordsFault : Prop :=
  ∀ (s : State) (f : Fault), s.loaded = true → s.fault = none → 0 < s.cfg.speed → step s = .fault f →
    ∃ t, tick s = .next t ∧ t.fault = some f ∧ t.cfg = s.cfg ∧ t.trace = s.trace ∧ tick t = .next t ∧ step t = .fault f
end

