-- ==== Sys2Proof/Laws/Decode.lean ====
section
/-! SUPPORT. The fields of a word (R91): of an assembled word, and what a word that matches a row's mask has in its fixed fields. -/

namespace Sys2Proof

/-! ### Fields of an assembled word -/

/-- The four nibbles of a word put together from four nibbles. -/
theorem fields_of_nibbles (g x y n : Nibble) :
    fieldG (g ++ x ++ y ++ n) = g ∧ fieldX (g ++ x ++ y ++ n) = x ∧ fieldY (g ++ x ++ y ++ n) = y ∧
      fieldN (g ++ x ++ y ++ n) = n := by
  refine ⟨?_, ?_, ?_, ?_⟩ <;>
  · ext i hi
    simp only [fieldG, fieldX, fieldY, fieldN, BitVec.getElem_extractLsb', BitVec.getLsbD_append]
    interval_cases i <;> simp

/-- The fields of a word put together from a group nibble, a register number and a byte. -/
theorem fields_of_byte (g x : Nibble) (nn : Byte) :
    fieldG (g ++ x ++ nn) = g ∧ fieldX (g ++ x ++ nn) = x ∧ fieldNN (g ++ x ++ nn) = nn := by
  refine ⟨?_, ?_, ?_⟩ <;>
  · ext i hi
    simp only [fieldG, fieldX, fieldNN, BitVec.getElem_extractLsb', BitVec.getLsbD_append]
    interval_cases i <;> simp

/-- The fields of a word put together from a group nibble and an address. -/
theorem fields_of_addr (g : Nibble) (nnn : Addr12) : fieldG (g ++ nnn) = g ∧ fieldNNN (g ++ nnn) = nnn := by
  refine ⟨?_, ?_⟩ <;>
  · ext i hi
    simp only [fieldG, fieldNNN, BitVec.getElem_extractLsb', BitVec.getLsbD_append]
    interval_cases i <;> simp

/-! ### The fixed fields of a word that matches a mask -/

theorem fieldG_of_maskF000 {w v : Word} (h : w &&& 0xF000 = v) : fieldG w = fieldG v := by
  subst h
  ext i hi
  simp only [fieldG, BitVec.getElem_extractLsb', BitVec.getLsbD_and]
  interval_cases i <;> simp

theorem fields_of_maskF00F {w v : Word} (h : w &&& 0xF00F = v) : fieldG w = fieldG v ∧ fieldN w = fieldN v := by
  subst h
  constructor <;>
  · ext i hi
    simp only [fieldG, fieldN, BitVec.getElem_extractLsb', BitVec.getLsbD_and]
    interval_cases i <;> simp

theorem fields_of_maskF0FF {w v : Word} (h : w &&& 0xF0FF = v) : fieldG w = fieldG v ∧ fieldNN w = fieldNN v := by
  subst h
  constructor <;>
  · ext i hi
    simp only [fieldG, fieldNN, BitVec.getElem_extractLsb', BitVec.getLsbD_and]
    interval_cases i <;> simp

theorem fields_of_maskFFF0 {w v : Word} (h : w &&& 0xFFF0 = v) :
    fieldG w = fieldG v ∧ fieldX w = fieldX v ∧ fieldY w = fieldY v := by
  subst h
  refine ⟨?_, ?_, ?_⟩ <;>
  · ext i hi
    simp only [fieldG, fieldX, fieldY, BitVec.getElem_extractLsb', BitVec.getLsbD_and]
    interval_cases i <;> simp

/-- A word is its four nibbles. -/
theorem word_eq_nibbles (w : Word) : w = fieldG w ++ fieldX w ++ fieldY w ++ fieldN w := by
  apply BitVec.eq_of_getLsbD_eq
  intro i hi
  simp only [fieldG, fieldX, fieldY, fieldN, BitVec.getLsbD_append, BitVec.getLsbD_extractLsb']
  interval_cases i <;> simp

/-- NNN is X and NN; NN is Y and N. -/
theorem fieldNNN_eq (w : Word) : fieldNNN w = fieldX w ++ fieldNN w := by
  apply BitVec.eq_of_getLsbD_eq
  intro i hi
  simp only [fieldNNN, fieldX, fieldNN, BitVec.getLsbD_append, BitVec.getLsbD_extractLsb']
  interval_cases i <;> simp

theorem fieldNN_eq (w : Word) : fieldNN w = fieldY w ++ fieldN w := by
  apply BitVec.eq_of_getLsbD_eq
  intro i hi
  simp only [fieldNN, fieldY, fieldN, BitVec.getLsbD_append, BitVec.getLsbD_extractLsb']
  interval_cases i <;> simp

/-- The two bytes of a word put together give the word back (R75). -/
theorem wordOfBytes_highLow (w : Word) : wordOfBytes (highByte w) (lowByte w) = w := by
  apply BitVec.eq_of_getLsbD_eq
  intro i hi
  simp only [wordOfBytes, highByte, lowByte, BitVec.getLsbD_append, BitVec.getLsbD_extractLsb']
  interval_cases i <;> simp

/-- The value of a word is its high byte times 256 plus its low byte (R75, R110). -/
theorem wordOfBytes_toNat (hi lo : Byte) : (wordOfBytes hi lo).toNat = hi.toNat * 256 + lo.toNat := by
  have := lo.isLt
  rw [wordOfBytes, BitVec.toNat_append, ← Nat.shiftLeft_add_eq_or_of_lt this, Nat.shiftLeft_eq]

end Sys2Proof
end

