-- ==== Sys2Proof/Laws/State.lean ====
section
/-! SUPPORT. One lemma per field per named update of the state, so that no later proof unfolds a record update. -/

namespace Sys2Proof.Machine

/-! ### setReg -/

@[simp] theorem State.setReg_i (s : State) (x : Nibble) (b : Byte) : (s.setReg x b).i = s.i := rfl
@[simp] theorem State.setReg_pc (s : State) (x : Nibble) (b : Byte) : (s.setReg x b).pc = s.pc := rfl
@[simp] theorem State.setReg_sp (s : State) (x : Nibble) (b : Byte) : (s.setReg x b).sp = s.sp := rfl
@[simp] theorem State.setReg_stack (s : State) (x : Nibble) (b : Byte) : (s.setReg x b).stack = s.stack := rfl
@[simp] theorem State.setReg_dt (s : State) (x : Nibble) (b : Byte) : (s.setReg x b).dt = s.dt := rfl
@[simp] theorem State.setReg_st (s : State) (x : Nibble) (b : Byte) : (s.setReg x b).st = s.st := rfl
@[simp] theorem State.setReg_mode (s : State) (x : Nibble) (b : Byte) : (s.setReg x b).mode = s.mode := rfl
@[simp] theorem State.setReg_fb (s : State) (x : Nibble) (b : Byte) : (s.setReg x b).fb = s.fb := rfl
@[simp] theorem State.setReg_redraw (s : State) (x : Nibble) (b : Byte) : (s.setReg x b).redraw = s.redraw := rfl
@[simp] theorem State.setReg_rpl (s : State) (x : Nibble) (b : Byte) : (s.setReg x b).rpl = s.rpl := rfl
@[simp] theorem State.setReg_keys (s : State) (x : Nibble) (b : Byte) : (s.setReg x b).keys = s.keys := rfl
@[simp] theorem State.setReg_opcode (s : State) (x : Nibble) (b : Byte) : (s.setReg x b).opcode = s.opcode := rfl
@[simp] theorem State.setReg_mem (s : State) (x : Nibble) (b : Byte) : (s.setReg x b).mem = s.mem := rfl
@[simp] theorem State.setReg_loaded (s : State) (x : Nibble) (b : Byte) : (s.setReg x b).loaded = s.loaded := rfl
@[simp] theorem State.setReg_fault (s : State) (x : Nibble) (b : Byte) : (s.setReg x b).fault = s.fault := rfl
@[simp] theorem State.setReg_cfg (s : State) (x : Nibble) (b : Byte) : (s.setReg x b).cfg = s.cfg := rfl
@[simp] theorem State.setReg_trace (s : State) (x : Nibble) (b : Byte) : (s.setReg x b).trace = s.trace := rfl
@[simp] theorem State.setReg_keySamples (s : State) (x : Nibble) (b : Byte) : (s.setReg x b).keySamples = s.keySamples := rfl
@[simp] theorem State.setReg_keyDraw (s : State) (x : Nibble) (b : Byte) : (s.setReg x b).keyDraw = s.keyDraw := rfl
@[simp] theorem State.setReg_randomBytes (s : State) (x : Nibble) (b : Byte) : (s.setReg x b).randomBytes = s.randomBytes := rfl
@[simp] theorem State.setReg_randomDraw (s : State) (x : Nibble) (b : Byte) : (s.setReg x b).randomDraw = s.randomDraw := rfl
@[simp] theorem State.setReg_initDraw (s : State) (x : Nibble) (b : Byte) : (s.setReg x b).initDraw = s.initDraw := rfl
@[simp] theorem State.setReg_byte (s : State) (x : Nibble) (b : Byte) (a : Nat) : (s.setReg x b).byte a = s.byte a := rfl

/-! ### advance -/

@[simp] theorem State.advance_v (s : State) : (s.advance).v = s.v := rfl
@[simp] theorem State.advance_i (s : State) : (s.advance).i = s.i := rfl
@[simp] theorem State.advance_pc (s : State) : (s.advance).pc = s.pc + 2 := rfl
@[simp] theorem State.advance_sp (s : State) : (s.advance).sp = s.sp := rfl
@[simp] theorem State.advance_stack (s : State) : (s.advance).stack = s.stack := rfl
@[simp] theorem State.advance_dt (s : State) : (s.advance).dt = s.dt := rfl
@[simp] theorem State.advance_st (s : State) : (s.advance).st = s.st := rfl
@[simp] theorem State.advance_mode (s : State) : (s.advance).mode = s.mode := rfl
@[simp] theorem State.advance_fb (s : State) : (s.advance).fb = s.fb := rfl
@[simp] theorem State.advance_redraw (s : State) : (s.advance).redraw = s.redraw := rfl
@[simp] theorem State.advance_rpl (s : State) : (s.advance).rpl = s.rpl := rfl
@[simp] theorem State.advance_keys (s : State) : (s.advance).keys = s.keys := rfl
@[simp] theorem State.advance_opcode (s : State) : (s.advance).opcode = s.opcode := rfl
@[simp] theorem State.advance_mem (s : State) : (s.advance).mem = s.mem := rfl
@[simp] theorem State.advance_loaded (s : State) : (s.advance).loaded = s.loaded := rfl
@[simp] theorem State.advance_fault (s : State) : (s.advance).fault = s.fault := rfl
@[simp] theorem State.advance_cfg (s : State) : (s.advance).cfg = s.cfg := rfl
@[simp] theorem State.advance_trace (s : State) : (s.advance).trace = s.trace := rfl
@[simp] theorem State.advance_keySamples (s : State) : (s.advance).keySamples = s.keySamples := rfl
@[simp] theorem State.advance_keyDraw (s : State) : (s.advance).keyDraw = s.keyDraw := rfl
@[simp] theorem State.advance_randomBytes (s : State) : (s.advance).randomBytes = s.randomBytes := rfl
@[simp] theorem State.advance_randomDraw (s : State) : (s.advance).randomDraw = s.randomDraw := rfl
@[simp] theorem State.advance_initDraw (s : State) : (s.advance).initDraw = s.initDraw := rfl
@[simp] theorem State.advance_byte (s : State) (a : Nat) : (s.advance).byte a = s.byte a := rfl
@[simp] theorem State.advance_reg (s : State) (r : Nibble) : (s.advance).reg r = s.reg r := rfl

/-! ### skipIf -/

@[simp] theorem State.skipIf_v (s : State) (c : Bool) : (s.skipIf c).v = s.v := rfl
@[simp] theorem State.skipIf_i (s : State) (c : Bool) : (s.skipIf c).i = s.i := rfl
@[simp] theorem State.skipIf_pc (s : State) (c : Bool) : (s.skipIf c).pc = (if c then s.pc + 2 else s.pc) := rfl
@[simp] theorem State.skipIf_sp (s : State) (c : Bool) : (s.skipIf c).sp = s.sp := rfl
@[simp] theorem State.skipIf_stack (s : State) (c : Bool) : (s.skipIf c).stack = s.stack := rfl
@[simp] theorem State.skipIf_dt (s : State) (c : Bool) : (s.skipIf c).dt = s.dt := rfl
@[simp] theorem State.skipIf_st (s : State) (c : Bool) : (s.skipIf c).st = s.st := rfl
@[simp] theorem State.skipIf_mode (s : State) (c : Bool) : (s.skipIf c).mode = s.mode := rfl
@[simp] theorem State.skipIf_fb (s : State) (c : Bool) : (s.skipIf c).fb = s.fb := rfl
@[simp] theorem State.skipIf_redraw (s : State) (c : Bool) : (s.skipIf c).redraw = s.redraw := rfl
@[simp] theorem State.skipIf_rpl (s : State) (c : Bool) : (s.skipIf c).rpl = s.rpl := rfl
@[simp] theorem State.skipIf_keys (s : State) (c : Bool) : (s.skipIf c).keys = s.keys := rfl
@[simp] theorem State.skipIf_opcode (s : State) (c : Bool) : (s.skipIf c).opcode = s.opcode := rfl
@[simp] theorem State.skipIf_mem (s : State) (c : Bool) : (s.skipIf c).mem = s.mem := rfl
@[simp] theorem State.skipIf_loaded (s : State) (c : Bool) : (s.skipIf c).loaded = s.loaded := rfl
@[simp] theorem State.skipIf_fault (s : State) (c : Bool) : (s.skipIf c).fault = s.fault := rfl
@[simp] theorem State.skipIf_cfg (s : State) (c : Bool) : (s.skipIf c).cfg = s.cfg := rfl
@[simp] theorem State.skipIf_trace (s : State) (c : Bool) : (s.skipIf c).trace = s.trace := rfl
@[simp] theorem State.skipIf_keySamples (s : State) (c : Bool) : (s.skipIf c).keySamples = s.keySamples := rfl
@[simp] theorem State.skipIf_keyDraw (s : State) (c : Bool) : (s.skipIf c).keyDraw = s.keyDraw := rfl
@[simp] theorem State.skipIf_randomBytes (s : State) (c : Bool) : (s.skipIf c).randomBytes = s.randomBytes := rfl
@[simp] theorem State.skipIf_randomDraw (s : State) (c : Bool) : (s.skipIf c).randomDraw = s.randomDraw := rfl
@[simp] theorem State.skipIf_initDraw (s : State) (c : Bool) : (s.skipIf c).initDraw = s.initDraw := rfl
@[simp] theorem State.skipIf_byte (s : State) (c : Bool) (a : Nat) : (s.skipIf c).byte a = s.byte a := rfl
@[simp] theorem State.skipIf_reg (s : State) (c : Bool) (r : Nibble) : (s.skipIf c).reg r = s.reg r := rfl

/-! ### loadRegs -/

@[simp] theorem State.loadRegs_v (s : State) (bs : List Byte) : (s.loadRegs bs).v = putBank s.v 0 bs := rfl
@[simp] theorem State.loadRegs_i (s : State) (bs : List Byte) : (s.loadRegs bs).i = s.i := rfl
@[simp] theorem State.loadRegs_pc (s : State) (bs : List Byte) : (s.loadRegs bs).pc = s.pc := rfl
@[simp] theorem State.loadRegs_sp (s : State) (bs : List Byte) : (s.loadRegs bs).sp = s.sp := rfl
@[simp] theorem State.loadRegs_stack (s : State) (bs : List Byte) : (s.loadRegs bs).stack = s.stack := rfl
@[simp] theorem State.loadRegs_dt (s : State) (bs : List Byte) : (s.loadRegs bs).dt = s.dt := rfl
@[simp] theorem State.loadRegs_st (s : State) (bs : List Byte) : (s.loadRegs bs).st = s.st := rfl
@[simp] theorem State.loadRegs_mode (s : State) (bs : List Byte) : (s.loadRegs bs).mode = s.mode := rfl
@[simp] theorem State.loadRegs_fb (s : State) (bs : List Byte) : (s.loadRegs bs).fb = s.fb := rfl
@[simp] theorem State.loadRegs_redraw (s : State) (bs : List Byte) : (s.loadRegs bs).redraw = s.redraw := rfl
@[simp] theorem State.loadRegs_rpl (s : State) (bs : List Byte) : (s.loadRegs bs).rpl = s.rpl := rfl
@[simp] theorem State.loadRegs_keys (s : State) (bs : List Byte) : (s.loadRegs bs).keys = s.keys := rfl
@[simp] theorem State.loadRegs_opcode (s : State) (bs : List Byte) : (s.loadRegs bs).opcode = s.opcode := rfl
@[simp] theorem State.loadRegs_mem (s : State) (bs : List Byte) : (s.loadRegs bs).mem = s.mem := rfl
@[simp] theorem State.loadRegs_loaded (s : State) (bs : List Byte) : (s.loadRegs bs).loaded = s.loaded := rfl
@[simp] theorem State.loadRegs_fault (s : State) (bs : List Byte) : (s.loadRegs bs).fault = s.fault := rfl
@[simp] theorem State.loadRegs_cfg (s : State) (bs : List Byte) : (s.loadRegs bs).cfg = s.cfg := rfl
@[simp] theorem State.loadRegs_trace (s : State) (bs : List Byte) : (s.loadRegs bs).trace = s.trace := rfl
@[simp] theorem State.loadRegs_keySamples (s : State) (bs : List Byte) : (s.loadRegs bs).keySamples = s.keySamples := rfl
@[simp] theorem State.loadRegs_keyDraw (s : State) (bs : List Byte) : (s.loadRegs bs).keyDraw = s.keyDraw := rfl
@[simp] theorem State.loadRegs_randomBytes (s : State) (bs : List Byte) : (s.loadRegs bs).randomBytes = s.randomBytes := rfl
@[simp] theorem State.loadRegs_randomDraw (s : State) (bs : List Byte) : (s.loadRegs bs).randomDraw = s.randomDraw := rfl
@[simp] theorem State.loadRegs_initDraw (s : State) (bs : List Byte) : (s.loadRegs bs).initDraw = s.initDraw := rfl
@[simp] theorem State.loadRegs_byte (s : State) (bs : List Byte) (a : Nat) : (s.loadRegs bs).byte a = s.byte a := rfl

/-! ### loadRpl -/

@[simp] theorem State.loadRpl_v (s : State) (bs : List Byte) : (s.loadRpl bs).v = s.v := rfl
@[simp] theorem State.loadRpl_i (s : State) (bs : List Byte) : (s.loadRpl bs).i = s.i := rfl
@[simp] theorem State.loadRpl_pc (s : State) (bs : List Byte) : (s.loadRpl bs).pc = s.pc := rfl
@[simp] theorem State.loadRpl_sp (s : State) (bs : List Byte) : (s.loadRpl bs).sp = s.sp := rfl
@[simp] theorem State.loadRpl_stack (s : State) (bs : List Byte) : (s.loadRpl bs).stack = s.stack := rfl
@[simp] theorem State.loadRpl_dt (s : State) (bs : List Byte) : (s.loadRpl bs).dt = s.dt := rfl
@[simp] theorem State.loadRpl_st (s : State) (bs : List Byte) : (s.loadRpl bs).st = s.st := rfl
@[simp] theorem State.loadRpl_mode (s : State) (bs : List Byte) : (s.loadRpl bs).mode = s.mode := rfl
@[simp] theorem State.loadRpl_fb (s : State) (bs : List Byte) : (s.loadRpl bs).fb = s.fb := rfl
@[simp] theorem State.loadRpl_redraw (s : State) (bs : List Byte) : (s.loadRpl bs).redraw = s.redraw := rfl
@[simp] theorem State.loadRpl_rpl (s : State) (bs : List Byte) : (s.loadRpl bs).rpl = putBank s.rpl 0 bs := rfl
@[simp] theorem State.loadRpl_keys (s : State) (bs : List Byte) : (s.loadRpl bs).keys = s.keys := rfl
@[simp] theorem State.loadRpl_opcode (s : State) (bs : List Byte) : (s.loadRpl bs).opcode = s.opcode := rfl
@[simp] theorem State.loadRpl_mem (s : State) (bs : List Byte) : (s.loadRpl bs).mem = s.mem := rfl
@[simp] theorem State.loadRpl_loaded (s : State) (bs : List Byte) : (s.loadRpl bs).loaded = s.loaded := rfl
@[simp] theorem State.loadRpl_fault (s : State) (bs : List Byte) : (s.loadRpl bs).fault = s.fault := rfl
@[simp] theorem State.loadRpl_cfg (s : State) (bs : List Byte) : (s.loadRpl bs).cfg = s.cfg := rfl
@[simp] theorem State.loadRpl_trace (s : State) (bs : List Byte) : (s.loadRpl bs).trace = s.trace := rfl
@[simp] theorem State.loadRpl_keySamples (s : State) (bs : List Byte) : (s.loadRpl bs).keySamples = s.keySamples := rfl
@[simp] theorem State.loadRpl_keyDraw (s : State) (bs : List Byte) : (s.loadRpl bs).keyDraw = s.keyDraw := rfl
@[simp] theorem State.loadRpl_randomBytes (s : State) (bs : List Byte) : (s.loadRpl bs).randomBytes = s.randomBytes := rfl
@[simp] theorem State.loadRpl_randomDraw (s : State) (bs : List Byte) : (s.loadRpl bs).randomDraw = s.randomDraw := rfl
@[simp] theorem State.loadRpl_initDraw (s : State) (bs : List Byte) : (s.loadRpl bs).initDraw = s.initDraw := rfl
@[simp] theorem State.loadRpl_byte (s : State) (bs : List Byte) (a : Nat) : (s.loadRpl bs).byte a = s.byte a := rfl
@[simp] theorem State.loadRpl_reg (s : State) (bs : List Byte) (r : Nibble) : (s.loadRpl bs).reg r = s.reg r := rfl

/-! ### clearScreen -/

@[simp] theorem State.clearScreen_v (s : State) : (s.clearScreen).v = s.v := rfl
@[simp] theorem State.clearScreen_i (s : State) : (s.clearScreen).i = s.i := rfl
@[simp] theorem State.clearScreen_pc (s : State) : (s.clearScreen).pc = s.pc := rfl
@[simp] theorem State.clearScreen_sp (s : State) : (s.clearScreen).sp = s.sp := rfl
@[simp] theorem State.clearScreen_stack (s : State) : (s.clearScreen).stack = s.stack := rfl
@[simp] theorem State.clearScreen_dt (s : State) : (s.clearScreen).dt = s.dt := rfl
@[simp] theorem State.clearScreen_st (s : State) : (s.clearScreen).st = s.st := rfl
@[simp] theorem State.clearScreen_mode (s : State) : (s.clearScreen).mode = s.mode := rfl
@[simp] theorem State.clearScreen_fb (s : State) : (s.clearScreen).fb = [] := rfl
@[simp] theorem State.clearScreen_redraw (s : State) : (s.clearScreen).redraw = true := rfl
@[simp] theorem State.clearScreen_rpl (s : State) : (s.clearScreen).rpl = s.rpl := rfl
@[simp] theorem State.clearScreen_keys (s : State) : (s.clearScreen).keys = s.keys := rfl
@[simp] theorem State.clearScreen_opcode (s : State) : (s.clearScreen).opcode = s.opcode := rfl
@[simp] theorem State.clearScreen_mem (s : State) : (s.clearScreen).mem = s.mem := rfl
@[simp] theorem State.clearScreen_loaded (s : State) : (s.clearScreen).loaded = s.loaded := rfl
@[simp] theorem State.clearScreen_fault (s : State) : (s.clearScreen).fault = s.fault := rfl
@[simp] theorem State.clearScreen_cfg (s : State) : (s.clearScreen).cfg = s.cfg := rfl
@[simp] theorem State.clearScreen_trace (s : State) : (s.clearScreen).trace = s.trace := rfl
@[simp] theorem State.clearScreen_keySamples (s : State) : (s.clearScreen).keySamples = s.keySamples := rfl
@[simp] theorem State.clearScreen_keyDraw (s : State) : (s.clearScreen).keyDraw = s.keyDraw := rfl
@[simp] theorem State.clearScreen_randomBytes (s : State) : (s.clearScreen).randomBytes = s.randomBytes := rfl
@[simp] theorem State.clearScreen_randomDraw (s : State) : (s.clearScreen).randomDraw = s.randomDraw := rfl
@[simp] theorem State.clearScreen_initDraw (s : State) : (s.clearScreen).initDraw = s.initDraw := rfl
@[simp] theorem State.clearScreen_byte (s : State) (a : Nat) : (s.clearScreen).byte a = s.byte a := rfl
@[simp] theorem State.clearScreen_reg (s : State) (r : Nibble) : (s.clearScreen).reg r = s.reg r := rfl

/-! ### setMode -/

@[simp] theorem State.setMode_v (s : State) (m : Mode) : (s.setMode m).v = s.v := rfl
@[simp] theorem State.setMode_i (s : State) (m : Mode) : (s.setMode m).i = s.i := rfl
@[simp] theorem State.setMode_pc (s : State) (m : Mode) : (s.setMode m).pc = s.pc := rfl
@[simp] theorem State.setMode_sp (s : State) (m : Mode) : (s.setMode m).sp = s.sp := rfl
@[simp] theorem State.setMode_stack (s : State) (m : Mode) : (s.setMode m).stack = s.stack := rfl
@[simp] theorem State.setMode_dt (s : State) (m : Mode) : (s.setMode m).dt = s.dt := rfl
@[simp] theorem State.setMode_st (s : State) (m : Mode) : (s.setMode m).st = s.st := rfl
@[simp] theorem State.setMode_mode (s : State) (m : Mode) : (s.setMode m).mode = m := rfl
@[simp] theorem State.setMode_fb (s : State) (m : Mode) : (s.setMode m).fb = (if s.mode = m then s.fb else []) := rfl
@[simp] theorem State.setMode_redraw (s : State) (m : Mode) : (s.setMode m).redraw = s.redraw := rfl
@[simp] theorem State.setMode_rpl (s : State) (m : Mode) : (s.setMode m).rpl = s.rpl := rfl
@[simp] theorem State.setMode_keys (s : State) (m : Mode) : (s.setMode m).keys = s.keys := rfl
@[simp] theorem State.setMode_opcode (s : State) (m : Mode) : (s.setMode m).opcode = s.opcode := rfl
@[simp] theorem State.setMode_mem (s : State) (m : Mode) : (s.setMode m).mem = s.mem := rfl
@[simp] theorem State.setMode_loaded (s : State) (m : Mode) : (s.setMode m).loaded = s.loaded := rfl
@[simp] theorem State.setMode_fault (s : State) (m : Mode) : (s.setMode m).fault = s.fault := rfl
@[simp] theorem State.setMode_cfg (s : State) (m : Mode) : (s.setMode m).cfg = s.cfg := rfl
@[simp] theorem State.setMode_trace (s : State) (m : Mode) : (s.setMode m).trace = s.trace := rfl
@[simp] theorem State.setMode_keySamples (s : State) (m : Mode) : (s.setMode m).keySamples = s.keySamples := rfl
@[simp] theorem State.setMode_keyDraw (s : State) (m : Mode) : (s.setMode m).keyDraw = s.keyDraw := rfl
@[simp] theorem State.setMode_randomBytes (s : State) (m : Mode) : (s.setMode m).randomBytes = s.randomBytes := rfl
@[simp] theorem State.setMode_randomDraw (s : State) (m : Mode) : (s.setMode m).randomDraw = s.randomDraw := rfl
@[simp] theorem State.setMode_initDraw (s : State) (m : Mode) : (s.setMode m).initDraw = s.initDraw := rfl
@[simp] theorem State.setMode_byte (s : State) (m : Mode) (a : Nat) : (s.setMode m).byte a = s.byte a := rfl
@[simp] theorem State.setMode_reg (s : State) (m : Mode) (r : Nibble) : (s.setMode m).reg r = s.reg r := rfl

/-! ### paint -/

@[simp] theorem State.paint_i (s : State) (ps : List (Nat × Nat)) : (s.paint ps).i = s.i := rfl
@[simp] theorem State.paint_pc (s : State) (ps : List (Nat × Nat)) : (s.paint ps).pc = s.pc := rfl
@[simp] theorem State.paint_sp (s : State) (ps : List (Nat × Nat)) : (s.paint ps).sp = s.sp := rfl
@[simp] theorem State.paint_stack (s : State) (ps : List (Nat × Nat)) : (s.paint ps).stack = s.stack := rfl
@[simp] theorem State.paint_dt (s : State) (ps : List (Nat × Nat)) : (s.paint ps).dt = s.dt := rfl
@[simp] theorem State.paint_st (s : State) (ps : List (Nat × Nat)) : (s.paint ps).st = s.st := rfl
@[simp] theorem State.paint_mode (s : State) (ps : List (Nat × Nat)) : (s.paint ps).mode = s.mode := rfl
@[simp] theorem State.paint_fb (s : State) (ps : List (Nat × Nat)) : (s.paint ps).fb = (ps.foldl (plot s.cfg.drawClip s.mode) (s.fb, false)).1 := rfl
@[simp] theorem State.paint_redraw (s : State) (ps : List (Nat × Nat)) : (s.paint ps).redraw = true := rfl
@[simp] theorem State.paint_rpl (s : State) (ps : List (Nat × Nat)) : (s.paint ps).rpl = s.rpl := rfl
@[simp] theorem State.paint_keys (s : State) (ps : List (Nat × Nat)) : (s.paint ps).keys = s.keys := rfl
@[simp] theorem State.paint_opcode (s : State) (ps : List (Nat × Nat)) : (s.paint ps).opcode = s.opcode := rfl
@[simp] theorem State.paint_mem (s : State) (ps : List (Nat × Nat)) : (s.paint ps).mem = s.mem := rfl
@[simp] theorem State.paint_loaded (s : State) (ps : List (Nat × Nat)) : (s.paint ps).loaded = s.loaded := rfl
@[simp] theorem State.paint_fault (s : State) (ps : List (Nat × Nat)) : (s.paint ps).fault = s.fault := rfl
@[simp] theorem State.paint_cfg (s : State) (ps : List (Nat × Nat)) : (s.paint ps).cfg = s.cfg := rfl
@[simp] theorem State.paint_trace (s : State) (ps : List (Nat × Nat)) : (s.paint ps).trace = s.trace := rfl
@[simp] theorem State.paint_keySamples (s : State) (ps : List (Nat × Nat)) : (s.paint ps).keySamples = s.keySamples := rfl
@[simp] theorem State.paint_keyDraw (s : State) (ps : List (Nat × Nat)) : (s.paint ps).keyDraw = s.keyDraw := rfl
@[simp] theorem State.paint_randomBytes (s : State) (ps : List (Nat × Nat)) : (s.paint ps).randomBytes = s.randomBytes := rfl
@[simp] theorem State.paint_randomDraw (s : State) (ps : List (Nat × Nat)) : (s.paint ps).randomDraw = s.randomDraw := rfl
@[simp] theorem State.paint_initDraw (s : State) (ps : List (Nat × Nat)) : (s.paint ps).initDraw = s.initDraw := rfl
@[simp] theorem State.paint_byte (s : State) (ps : List (Nat × Nat)) (a : Nat) : (s.paint ps).byte a = s.byte a := rfl

/-! ### bumpIndex -/

@[simp] theorem State.bumpIndex_v (s : State) (x : Nibble) : (s.bumpIndex x).v = s.v := rfl
@[simp] theorem State.bumpIndex_i (s : State) (x : Nibble) : (s.bumpIndex x).i = (if s.cfg.quirks.incI then s.i + x.setWidth 16 + 1 else s.i) := rfl
@[simp] theorem State.bumpIndex_pc (s : State) (x : Nibble) : (s.bumpIndex x).pc = s.pc := rfl
@[simp] theorem State.bumpIndex_sp (s : State) (x : Nibble) : (s.bumpIndex x).sp = s.sp := rfl
@[simp] theorem State.bumpIndex_stack (s : State) (x : Nibble) : (s.bumpIndex x).stack = s.stack := rfl
@[simp] theorem State.bumpIndex_dt (s : State) (x : Nibble) : (s.bumpIndex x).dt = s.dt := rfl
@[simp] theorem State.bumpIndex_st (s : State) (x : Nibble) : (s.bumpIndex x).st = s.st := rfl
@[simp] theorem State.bumpIndex_mode (s : State) (x : Nibble) : (s.bumpIndex x).mode = s.mode := rfl
@[simp] theorem State.bumpIndex_fb (s : State) (x : Nibble) : (s.bumpIndex x).fb = s.fb := rfl
@[simp] theorem State.bumpIndex_redraw (s : State) (x : Nibble) : (s.bumpIndex x).redraw = s.redraw := rfl
@[simp] theorem State.bumpIndex_rpl (s : State) (x : Nibble) : (s.bumpIndex x).rpl = s.rpl := rfl
@[simp] theorem State.bumpIndex_keys (s : State) (x : Nibble) : (s.bumpIndex x).keys = s.keys := rfl
@[simp] theorem State.bumpIndex_opcode (s : State) (x : Nibble) : (s.bumpIndex x).opcode = s.opcode := rfl
@[simp] theorem State.bumpIndex_mem (s : State) (x : Nibble) : (s.bumpIndex x).mem = s.mem := rfl
@[simp] theorem State.bumpIndex_loaded (s : State) (x : Nibble) : (s.bumpIndex x).loaded = s.loaded := rfl
@[simp] theorem State.bumpIndex_fault (s : State) (x : Nibble) : (s.bumpIndex x).fault = s.fault := rfl
@[simp] theorem State.bumpIndex_cfg (s : State) (x : Nibble) : (s.bumpIndex x).cfg = s.cfg := rfl
@[simp] theorem State.bumpIndex_trace (s : State) (x : Nibble) : (s.bumpIndex x).trace = s.trace := rfl
@[simp] theorem State.bumpIndex_keySamples (s : State) (x : Nibble) : (s.bumpIndex x).keySamples = s.keySamples := rfl
@[simp] theorem State.bumpIndex_keyDraw (s : State) (x : Nibble) : (s.bumpIndex x).keyDraw = s.keyDraw := rfl
@[simp] theorem State.bumpIndex_randomBytes (s : State) (x : Nibble) : (s.bumpIndex x).randomBytes = s.randomBytes := rfl
@[simp] theorem State.bumpIndex_randomDraw (s : State) (x : Nibble) : (s.bumpIndex x).randomDraw = s.randomDraw := rfl
@[simp] theorem State.bumpIndex_initDraw (s : State) (x : Nibble) : (s.bumpIndex x).initDraw = s.initDraw := rfl
@[simp] theorem State.bumpIndex_byte (s : State) (x : Nibble) (a : Nat) : (s.bumpIndex x).byte a = s.byte a := rfl
@[simp] theorem State.bumpIndex_reg (s : State) (x : Nibble) (r : Nibble) : (s.bumpIndex x).reg r = s.reg r := rfl

/-! ### init -/

@[simp] theorem State.init_v (s : State) : (s.init).v = Vector.replicate 16 0 := rfl
@[simp] theorem State.init_i (s : State) : (s.init).i = 0 := rfl
@[simp] theorem State.init_pc (s : State) : (s.init).pc = 0x200 := rfl
@[simp] theorem State.init_sp (s : State) : (s.init).sp = 0 := rfl
@[simp] theorem State.init_stack (s : State) : (s.init).stack = Vector.replicate 16 0 := rfl
@[simp] theorem State.init_dt (s : State) : (s.init).dt = 0 := rfl
@[simp] theorem State.init_st (s : State) : (s.init).st = 0 := rfl
@[simp] theorem State.init_mode (s : State) : (s.init).mode = .low := rfl
@[simp] theorem State.init_fb (s : State) : (s.init).fb = [] := rfl
@[simp] theorem State.init_redraw (s : State) : (s.init).redraw = false := rfl
@[simp] theorem State.init_rpl (s : State) : (s.init).rpl = Config.rplInit (s.initDraw + 1) := rfl
@[simp] theorem State.init_keys (s : State) : (s.init).keys = Vector.replicate 16 false := rfl
@[simp] theorem State.init_opcode (s : State) : (s.init).opcode = 0 := rfl
@[simp] theorem State.init_mem (s : State) : (s.init).mem = [] := rfl
@[simp] theorem State.init_loaded (s : State) : (s.init).loaded = s.loaded := rfl
@[simp] theorem State.init_fault (s : State) : (s.init).fault = s.fault := rfl
@[simp] theorem State.init_cfg (s : State) : (s.init).cfg = s.cfg := rfl
@[simp] theorem State.init_trace (s : State) : (s.init).trace = s.trace := rfl
@[simp] theorem State.init_keySamples (s : State) : (s.init).keySamples = s.keySamples := rfl
@[simp] theorem State.init_keyDraw (s : State) : (s.init).keyDraw = s.keyDraw := rfl
@[simp] theorem State.init_randomBytes (s : State) : (s.init).randomBytes = s.randomBytes := rfl
@[simp] theorem State.init_randomDraw (s : State) : (s.init).randomDraw = s.randomDraw := rfl
@[simp] theorem State.init_initDraw (s : State) : (s.init).initDraw = s.initDraw + 1 := rfl

/-! ### latch -/

@[simp] theorem State.latch_v (s : State) (w : Word) : (s.latch w).v = s.v := rfl
@[simp] theorem State.latch_i (s : State) (w : Word) : (s.latch w).i = s.i := rfl
@[simp] theorem State.latch_pc (s : State) (w : Word) : (s.latch w).pc = s.pc + 2 := rfl
@[simp] theorem State.latch_sp (s : State) (w : Word) : (s.latch w).sp = s.sp := rfl
@[simp] theorem State.latch_stack (s : State) (w : Word) : (s.latch w).stack = s.stack := rfl
@[simp] theorem State.latch_dt (s : State) (w : Word) : (s.latch w).dt = s.dt := rfl
@[simp] theorem State.latch_st (s : State) (w : Word) : (s.latch w).st = s.st := rfl
@[simp] theorem State.latch_mode (s : State) (w : Word) : (s.latch w).mode = s.mode := rfl
@[simp] theorem State.latch_fb (s : State) (w : Word) : (s.latch w).fb = s.fb := rfl
@[simp] theorem State.latch_redraw (s : State) (w : Word) : (s.latch w).redraw = s.redraw := rfl
@[simp] theorem State.latch_rpl (s : State) (w : Word) : (s.latch w).rpl = s.rpl := rfl
@[simp] theorem State.latch_keys (s : State) (w : Word) : (s.latch w).keys = s.keys := rfl
@[simp] theorem State.latch_opcode (s : State) (w : Word) : (s.latch w).opcode = w := rfl
@[simp] theorem State.latch_mem (s : State) (w : Word) : (s.latch w).mem = s.mem := rfl
@[simp] theorem State.latch_loaded (s : State) (w : Word) : (s.latch w).loaded = s.loaded := rfl
@[simp] theorem State.latch_fault (s : State) (w : Word) : (s.latch w).fault = s.fault := rfl
@[simp] theorem State.latch_cfg (s : State) (w : Word) : (s.latch w).cfg = s.cfg := rfl
@[simp] theorem State.latch_trace (s : State) (w : Word) : (s.latch w).trace = s.trace := rfl
@[simp] theorem State.latch_keySamples (s : State) (w : Word) : (s.latch w).keySamples = s.keySamples := rfl
@[simp] theorem State.latch_keyDraw (s : State) (w : Word) : (s.latch w).keyDraw = s.keyDraw := rfl
@[simp] theorem State.latch_randomBytes (s : State) (w : Word) : (s.latch w).randomBytes = s.randomBytes := rfl
@[simp] theorem State.latch_randomDraw (s : State) (w : Word) : (s.latch w).randomDraw = s.randomDraw := rfl
@[simp] theorem State.latch_initDraw (s : State) (w : Word) : (s.latch w).initDraw = s.initDraw := rfl
@[simp] theorem State.latch_byte (s : State) (w : Word) (a : Nat) : (s.latch w).byte a = s.byte a := rfl
@[simp] theorem State.latch_reg (s : State) (w : Word) (r : Nibble) : (s.latch w).reg r = s.reg r := rfl

/-! ### timerStep -/

@[simp] theorem State.timerStep_v (s : State) : (s.timerStep).v = s.v := rfl
@[simp] theorem State.timerStep_i (s : State) : (s.timerStep).i = s.i := rfl
@[simp] theorem State.timerStep_pc (s : State) : (s.timerStep).pc = s.pc := rfl
@[simp] theorem State.timerStep_sp (s : State) : (s.timerStep).sp = s.sp := rfl
@[simp] theorem State.timerStep_stack (s : State) : (s.timerStep).stack = s.stack := rfl
@[simp] theorem State.timerStep_dt (s : State) : (s.timerStep).dt = countDown s.dt := rfl
@[simp] theorem State.timerStep_st (s : State) : (s.timerStep).st = countDown s.st := rfl
@[simp] theorem State.timerStep_mode (s : State) : (s.timerStep).mode = s.mode := rfl
@[simp] theorem State.timerStep_fb (s : State) : (s.timerStep).fb = s.fb := rfl
@[simp] theorem State.timerStep_redraw (s : State) : (s.timerStep).redraw = s.redraw := rfl
@[simp] theorem State.timerStep_rpl (s : State) : (s.timerStep).rpl = s.rpl := rfl
@[simp] theorem State.timerStep_keys (s : State) : (s.timerStep).keys = s.keys := rfl
@[simp] theorem State.timerStep_opcode (s : State) : (s.timerStep).opcode = s.opcode := rfl
@[simp] theorem State.timerStep_mem (s : State) : (s.timerStep).mem = s.mem := rfl
@[simp] theorem State.timerStep_loaded (s : State) : (s.timerStep).loaded = s.loaded := rfl
@[simp] theorem State.timerStep_fault (s : State) : (s.timerStep).fault = s.fault := rfl
@[simp] theorem State.timerStep_cfg (s : State) : (s.timerStep).cfg = s.cfg := rfl
@[simp] theorem State.timerStep_trace (s : State) : (s.timerStep).trace = (if s.st ≠ 0 ∧ countDown s.st = 0 then s.trace ++ [.beep] else s.trace) := rfl
@[simp] theorem State.timerStep_keySamples (s : State) : (s.timerStep).keySamples = s.keySamples := rfl
@[simp] theorem State.timerStep_keyDraw (s : State) : (s.timerStep).keyDraw = s.keyDraw := rfl
@[simp] theorem State.timerStep_randomBytes (s : State) : (s.timerStep).randomBytes = s.randomBytes := rfl
@[simp] theorem State.timerStep_randomDraw (s : State) : (s.timerStep).randomDraw = s.randomDraw := rfl
@[simp] theorem State.timerStep_initDraw (s : State) : (s.timerStep).initDraw = s.initDraw := rfl
@[simp] theorem State.timerStep_byte (s : State) (a : Nat) : (s.timerStep).byte a = s.byte a := rfl
@[simp] theorem State.timerStep_reg (s : State) (r : Nibble) : (s.timerStep).reg r = s.reg r := rfl

/-! ### emitFrame -/

@[simp] theorem State.emitFrame_v (s : State) : (s.emitFrame).v = s.v := rfl
@[simp] theorem State.emitFrame_i (s : State) : (s.emitFrame).i = s.i := rfl
@[simp] theorem State.emitFrame_pc (s : State) : (s.emitFrame).pc = s.pc := rfl
@[simp] theorem State.emitFrame_sp (s : State) : (s.emitFrame).sp = s.sp := rfl
@[simp] theorem State.emitFrame_stack (s : State) : (s.emitFrame).stack = s.stack := rfl
@[simp] theorem State.emitFrame_dt (s : State) : (s.emitFrame).dt = s.dt := rfl
@[simp] theorem State.emitFrame_st (s : State) : (s.emitFrame).st = s.st := rfl
@[simp] theorem State.emitFrame_mode (s : State) : (s.emitFrame).mode = s.mode := rfl
@[simp] theorem State.emitFrame_fb (s : State) : (s.emitFrame).fb = s.fb := rfl
@[simp] theorem State.emitFrame_redraw (s : State) : (s.emitFrame).redraw = false := rfl
@[simp] theorem State.emitFrame_rpl (s : State) : (s.emitFrame).rpl = s.rpl := rfl
@[simp] theorem State.emitFrame_keys (s : State) : (s.emitFrame).keys = s.keys := rfl
@[simp] theorem State.emitFrame_opcode (s : State) : (s.emitFrame).opcode = s.opcode := rfl
@[simp] theorem State.emitFrame_mem (s : State) : (s.emitFrame).mem = s.mem := rfl
@[simp] theorem State.emitFrame_loaded (s : State) : (s.emitFrame).loaded = s.loaded := rfl
@[simp] theorem State.emitFrame_fault (s : State) : (s.emitFrame).fault = s.fault := rfl
@[simp] theorem State.emitFrame_cfg (s : State) : (s.emitFrame).cfg = s.cfg := rfl
@[simp] theorem State.emitFrame_trace (s : State) : (s.emitFrame).trace = (if s.redraw then s.trace ++ [.frame s.fb s.mode] else s.trace) := rfl
@[simp] theorem State.emitFrame_keySamples (s : State) : (s.emitFrame).keySamples = s.keySamples := rfl
@[simp] theorem State.emitFrame_keyDraw (s : State) : (s.emitFrame).keyDraw = s.keyDraw := rfl
@[simp] theorem State.emitFrame_randomBytes (s : State) : (s.emitFrame).randomBytes = s.randomBytes := rfl
@[simp] theorem State.emitFrame_randomDraw (s : State) : (s.emitFrame).randomDraw = s.randomDraw := rfl
@[simp] theorem State.emitFrame_initDraw (s : State) : (s.emitFrame).initDraw = s.initDraw := rfl
@[simp] theorem State.emitFrame_byte (s : State) (a : Nat) : (s.emitFrame).byte a = s.byte a := rfl
@[simp] theorem State.emitFrame_reg (s : State) (r : Nibble) : (s.emitFrame).reg r = s.reg r := rfl

/-! ### writeRF -/

@[simp] theorem State.writeRF_i (s : State) (x : Nibble) (r : Byte) (f : Bool) : (s.writeRF x r f).i = s.i := by unfold State.writeRF; split <;> rfl
@[simp] theorem State.writeRF_pc (s : State) (x : Nibble) (r : Byte) (f : Bool) : (s.writeRF x r f).pc = s.pc := by unfold State.writeRF; split <;> rfl
@[simp] theorem State.writeRF_sp (s : State) (x : Nibble) (r : Byte) (f : Bool) : (s.writeRF x r f).sp = s.sp := by unfold State.writeRF; split <;> rfl
@[simp] theorem State.writeRF_stack (s : State) (x : Nibble) (r : Byte) (f : Bool) : (s.writeRF x r f).stack = s.stack := by unfold State.writeRF; split <;> rfl
@[simp] theorem State.writeRF_dt (s : State) (x : Nibble) (r : Byte) (f : Bool) : (s.writeRF x r f).dt = s.dt := by unfold State.writeRF; split <;> rfl
@[simp] theorem State.writeRF_st (s : State) (x : Nibble) (r : Byte) (f : Bool) : (s.writeRF x r f).st = s.st := by unfold State.writeRF; split <;> rfl
@[simp] theorem State.writeRF_mode (s : State) (x : Nibble) (r : Byte) (f : Bool) : (s.writeRF x r f).mode = s.mode := by unfold State.writeRF; split <;> rfl
@[simp] theorem State.writeRF_fb (s : State) (x : Nibble) (r : Byte) (f : Bool) : (s.writeRF x r f).fb = s.fb := by unfold State.writeRF; split <;> rfl
@[simp] theorem State.writeRF_redraw (s : State) (x : Nibble) (r : Byte) (f : Bool) : (s.writeRF x r f).redraw = s.redraw := by unfold State.writeRF; split <;> rfl
@[simp] theorem State.writeRF_rpl (s : State) (x : Nibble) (r : Byte) (f : Bool) : (s.writeRF x r f).rpl = s.rpl := by unfold State.writeRF; split <;> rfl
@[simp] theorem State.writeRF_keys (s : State) (x : Nibble) (r : Byte) (f : Bool) : (s.writeRF x r f).keys = s.keys := by unfold State.writeRF; split <;> rfl
@[simp] theorem State.writeRF_opcode (s : State) (x : Nibble) (r : Byte) (f : Bool) : (s.writeRF x r f).opcode = s.opcode := by unfold State.writeRF; split <;> rfl
@[simp] theorem State.writeRF_mem (s : State) (x : Nibble) (r : Byte) (f : Bool) : (s.writeRF x r f).mem = s.mem := by unfold State.writeRF; split <;> rfl
@[simp] theorem State.writeRF_loaded (s : State) (x : Nibble) (r : Byte) (f : Bool) : (s.writeRF x r f).loaded = s.loaded := by unfold State.writeRF; split <;> rfl
@[simp] theorem State.writeRF_fault (s : State) (x : Nibble) (r : Byte) (f : Bool) : (s.writeRF x r f).fault = s.fault := by unfold State.writeRF; split <;> rfl
@[simp] theorem State.writeRF_cfg (s : State) (x : Nibble) (r : Byte) (f : Bool) : (s.writeRF x r f).cfg = s.cfg := by unfold State.writeRF; split <;> rfl
@[simp] theorem State.writeRF_trace (s : State) (x : Nibble) (r : Byte) (f : Bool) : (s.writeRF x r f).trace = s.trace := by unfold State.writeRF; split <;> rfl
@[simp] theorem State.writeRF_keySamples (s : State) (x : Nibble) (r : Byte) (f : Bool) : (s.writeRF x r f).keySamples = s.keySamples := by unfold State.writeRF; split <;> rfl
@[simp] theorem State.writeRF_keyDraw (s : State) (x : Nibble) (r : Byte) (f : Bool) : (s.writeRF x r f).keyDraw = s.keyDraw := by unfold State.writeRF; split <;> rfl
@[simp] theorem State.writeRF_randomBytes (s : State) (x : Nibble) (r : Byte) (f : Bool) : (s.writeRF x r f).randomBytes = s.randomBytes := by unfold State.writeRF; split <;> rfl
@[simp] theorem State.writeRF_randomDraw (s : State) (x : Nibble) (r : Byte) (f : Bool) : (s.writeRF x r f).randomDraw = s.randomDraw := by unfold State.writeRF; split <;> rfl
@[simp] theorem State.writeRF_initDraw (s : State) (x : Nibble) (r : Byte) (f : Bool) : (s.writeRF x r f).initDraw = s.initDraw := by unfold State.writeRF; split <;> rfl
@[simp] theorem State.writeRF_byte (s : State) (x : Nibble) (r : Byte) (f : Bool) (a : Nat) : (s.writeRF x r f).byte a = s.byte a := by unfold State.writeRF; split <;> rfl

/-! ### sampleKeys -/

@[simp] theorem State.sampleKeys_v (s : State) : (s.sampleKeys).v = s.v := by unfold State.sampleKeys; split <;> rfl
@[simp] theorem State.sampleKeys_i (s : State) : (s.sampleKeys).i = s.i := by unfold State.sampleKeys; split <;> rfl
@[simp] theorem State.sampleKeys_pc (s : State) : (s.sampleKeys).pc = s.pc := by unfold State.sampleKeys; split <;> rfl
@[simp] theorem State.sampleKeys_sp (s : State) : (s.sampleKeys).sp = s.sp := by unfold State.sampleKeys; split <;> rfl
@[simp] theorem State.sampleKeys_stack (s : State) : (s.sampleKeys).stack = s.stack := by unfold State.sampleKeys; split <;> rfl
@[simp] theorem State.sampleKeys_dt (s : State) : (s.sampleKeys).dt = s.dt := by unfold State.sampleKeys; split <;> rfl
@[simp] theorem State.sampleKeys_st (s : State) : (s.sampleKeys).st = s.st := by unfold State.sampleKeys; split <;> rfl
@[simp] theorem State.sampleKeys_mode (s : State) : (s.sampleKeys).mode = s.mode := by unfold State.sampleKeys; split <;> rfl
@[simp] theorem State.sampleKeys_fb (s : State) : (s.sampleKeys).fb = s.fb := by unfold State.sampleKeys; split <;> rfl
@[simp] theorem State.sampleKeys_redraw (s : State) : (s.sampleKeys).redraw = s.redraw := by unfold State.sampleKeys; split <;> rfl
@[simp] theorem State.sampleKeys_rpl (s : State) : (s.sampleKeys).rpl = s.rpl := by unfold State.sampleKeys; split <;> rfl
@[simp] theorem State.sampleKeys_opcode (s : State) : (s.sampleKeys).opcode = s.opcode := by unfold State.sampleKeys; split <;> rfl
@[simp] theorem State.sampleKeys_mem (s : State) : (s.sampleKeys).mem = s.mem := by unfold State.sampleKeys; split <;> rfl
@[simp] theorem State.sampleKeys_loaded (s : State) : (s.sampleKeys).loaded = s.loaded := by unfold State.sampleKeys; split <;> rfl
@[simp] theorem State.sampleKeys_fault (s : State) : (s.sampleKeys).fault = s.fault := by unfold State.sampleKeys; split <;> rfl
@[simp] theorem State.sampleKeys_cfg (s : State) : (s.sampleKeys).cfg = s.cfg := by unfold State.sampleKeys; split <;> rfl
@[simp] theorem State.sampleKeys_trace (s : State) : (s.sampleKeys).trace = s.trace := by unfold State.sampleKeys; split <;> rfl
@[simp] theorem State.sampleKeys_randomBytes (s : State) : (s.sampleKeys).randomBytes = s.randomBytes := by unfold State.sampleKeys; split <;> rfl
@[simp] theorem State.sampleKeys_randomDraw (s : State) : (s.sampleKeys).randomDraw = s.randomDraw := by unfold State.sampleKeys; split <;> rfl
@[simp] theorem State.sampleKeys_initDraw (s : State) : (s.sampleKeys).initDraw = s.initDraw := by unfold State.sampleKeys; split <;> rfl
@[simp] theorem State.sampleKeys_byte (s : State) (a : Nat) : (s.sampleKeys).byte a = s.byte a := by unfold State.sampleKeys; split <;> rfl
@[simp] theorem State.sampleKeys_reg (s : State) (r : Nibble) : (s.sampleKeys).reg r = s.reg r := by unfold State.sampleKeys; split <;> rfl

/-! ### dropRandom -/

@[simp] theorem State.dropRandom_v (s : State) : (s.dropRandom).v = s.v := by unfold State.dropRandom; split <;> rfl
@[simp] theorem State.dropRandom_i (s : State) : (s.dropRandom).i = s.i := by unfold State.dropRandom; split <;> rfl
@[simp] theorem State.dropRandom_pc (s : State) : (s.dropRandom).pc = s.pc := by unfold State.dropRandom; split <;> rfl
@[simp] theorem State.dropRandom_sp (s : State) : (s.dropRandom).sp = s.sp := by unfold State.dropRandom; split <;> rfl
@[simp] theorem State.dropRandom_stack (s : State) : (s.dropRandom).stack = s.stack := by unfold State.dropRandom; split <;> rfl
@[simp] theorem State.dropRandom_dt (s : State) : (s.dropRandom).dt = s.dt := by unfold State.dropRandom; split <;> rfl
@[simp] theorem State.dropRandom_st (s : State) : (s.dropRandom).st = s.st := by unfold State.dropRandom; split <;> rfl
@[simp] theorem State.dropRandom_mode (s : State) : (s.dropRandom).mode = s.mode := by unfold State.dropRandom; split <;> rfl
@[simp] theorem State.dropRandom_fb (s : State) : (s.dropRandom).fb = s.fb := by unfold State.dropRandom; split <;> rfl
@[simp] theorem State.dropRandom_redraw (s : State) : (s.dropRandom).redraw = s.redraw := by unfold State.dropRandom; split <;> rfl
@[simp] theorem State.dropRandom_rpl (s : State) : (s.dropRandom).rpl = s.rpl := by unfold State.dropRandom; split <;> rfl
@[simp] theorem State.dropRandom_keys (s : State) : (s.dropRandom).keys = s.keys := by unfold State.dropRandom; split <;> rfl
@[simp] theorem State.dropRandom_opcode (s : State) : (s.dropRandom).opcode = s.opcode := by unfold State.dropRandom; split <;> rfl
@[simp] theorem State.dropRandom_mem (s : State) : (s.dropRandom).mem = s.mem := by unfold State.dropRandom; split <;> rfl
@[simp] theorem State.dropRandom_loaded (s : State) : (s.dropRandom).loaded = s.loaded := by unfold State.dropRandom; split <;> rfl
@[simp] theorem State.dropRandom_fault (s : State) : (s.dropRandom).fault = s.fault := by unfold State.dropRandom; split <;> rfl
@[simp] theorem State.dropRandom_cfg (s : State) : (s.dropRandom).cfg = s.cfg := by unfold State.dropRandom; split <;> rfl
@[simp] theorem State.dropRandom_trace (s : State) : (s.dropRandom).trace = s.trace := by unfold State.dropRandom; split <;> rfl
@[simp] theorem State.dropRandom_keySamples (s : State) : (s.dropRandom).keySamples = s.keySamples := by unfold State.dropRandom; split <;> rfl
@[simp] theorem State.dropRandom_keyDraw (s : State) : (s.dropRandom).keyDraw = s.keyDraw := by unfold State.dropRandom; split <;> rfl
@[simp] theorem State.dropRandom_initDraw (s : State) : (s.dropRandom).initDraw = s.initDraw := by unfold State.dropRandom; split <;> rfl
@[simp] theorem State.dropRandom_byte (s : State) (a : Nat) : (s.dropRandom).byte a = s.byte a := by unfold State.dropRandom; split <;> rfl
@[simp] theorem State.dropRandom_reg (s : State) (r : Nibble) : (s.dropRandom).reg r = s.reg r := by unfold State.dropRandom; split <;> rfl

/-! ### The end of a cycle -/

@[simp] theorem State.endCycle_eq (s : State) : s.endCycle = s.timerStep.emitFrame := rfl

end Sys2Proof.Machine
end

