-- ==== Sys2Proof/Laws/Registers.lean ====
section
/-! SUPPORT. What reading a register gives after each write of registers. -/

namespace Sys2Proof.Machine

/-- A register read after a register write. -/
theorem State.reg_setReg (s : State) (x r : Nibble) (b : Byte) : (s.setReg x b).reg r = if r = x then b else s.reg r := by
  simp only [State.reg, State.setReg, Vector.getElem_set, BitVec.toNat_inj]
  split <;> split <;> simp_all

@[simp] theorem State.reg_setReg_same (s : State) (x : Nibble) (b : Byte) : (s.setReg x b).reg x = b := by
  simp [State.reg_setReg]

theorem State.reg_setReg_ne (s : State) {x r : Nibble} (b : Byte) (h : r ≠ x) : (s.setReg x b).reg r = s.reg r := by
  simp [State.reg_setReg, h]

@[simp] theorem State.init_reg (s : State) (r : Nibble) : s.init.reg r = 0 := by
  simp [State.reg]

/-- A register read after a result and its flag are written (R172). -/
theorem State.reg_writeRF (s : State) (x r : Nibble) (b : Byte) (f : Bool) :
    (s.writeRF x b f).reg r =
      match s.cfg.vfOrder with
      | .flagLast => if r = 15 then flagByte f else if r = x then b else s.reg r
      | .resultLast => if r = x then b else if r = 15 then flagByte f else s.reg r := by
  unfold State.writeRF
  cases s.cfg.vfOrder <;> simp [State.reg_setReg]

/-- A bank entry after a block of bytes is put at position `k`. -/
theorem putBank_getElem {n : Nat} (bank : Vector Byte n) (k : Nat) (bs : List Byte) (j : Nat) (hj : j < n) :
    (putBank bank k bs)[j] = if h : k ≤ j ∧ j - k < bs.length then bs[j - k]'h.2 else bank[j] := by
  induction bs generalizing bank k with
  | nil => simp [putBank]
  | cons b bs ih =>
    rw [putBank, ih]
    by_cases h1 : k + 1 ≤ j
    · have e : j - k = (j - (k + 1)) + 1 := by omega
      by_cases h2 : j - (k + 1) < bs.length
      · simp only [h1, h2, and_self, dite_true]
        rw [dif_pos (by simp; omega)]
        simp [e]
      · rw [dif_neg (by omega), dif_neg (by simp; omega), Vector.getElem_setIfInBounds]
        rw [if_neg (by omega)]
    · rw [dif_neg (by omega), Vector.getElem_setIfInBounds]
      by_cases h3 : k = j
      · subst h3; simp
      · rw [if_neg h3, dif_neg (by omega)]

/-- A register after V0, V1, ... are loaded (R253, R255). -/
theorem State.reg_loadRegs (s : State) (bs : List Byte) (r : Nibble) :
    (s.loadRegs bs).reg r = if h : r.toNat < bs.length then bs[r.toNat] else s.reg r := by
  simp only [State.reg, State.loadRegs, putBank_getElem]
  simp

@[simp] theorem State.length_regsUpTo (s : State) (x : Nibble) : (s.regsUpTo x).length = x.toNat + 1 := by
  have := x.isLt
  simp [State.regsUpTo]; omega

/-- The k-th byte of V0..Vx is Vk. -/
theorem State.getElem_regsUpTo (s : State) (x : Nibble) (k : Nibble) (h : k.toNat < (s.regsUpTo x).length) :
    (s.regsUpTo x)[k.toNat] = s.reg k := by
  simp [State.regsUpTo, State.reg]

@[simp] theorem State.length_rplUpTo (s : State) (x : Nibble) : (s.rplUpTo x).length = min (x.toNat + 1) 8 := by
  simp [State.rplUpTo]

/-- The k-th byte of RPL[0..x] is RPL[k]. -/
theorem State.getElem_rplUpTo (s : State) (x : Nibble) (k : Nat) (h : k < (s.rplUpTo x).length) :
    (s.rplUpTo x)[k] = s.rpl[k]'(by simp at h; omega) := by
  simp [State.rplUpTo]

/-- An RPL byte after RPL[0], RPL[1], ... are loaded (R254). -/
theorem State.rpl_loadRpl (s : State) (bs : List Byte) (j : Nat) (hj : j < 8) :
    (s.loadRpl bs).rpl[j] = if h : j < bs.length then bs[j] else s.rpl[j] := by
  simp only [State.loadRpl, putBank_getElem]
  simp

end Sys2Proof.Machine
end

