-- ==== Sys2Proof/Laws/Framebuffer.lean ====
section
/-! SUPPORT. The framebuffer: what toggling a cell does, that drawing keeps the canonical form and the size, and what a list of distinct
pixels leaves. -/

namespace Sys2Proof.Machine

theorem Framebuffer.lit_iff (fb : Framebuffer) (k : Nat) : fb.lit k = true ↔ k ∈ fb := by
  simp [Framebuffer.lit]

theorem Framebuffer.mem_light (fb : Framebuffer) (k j : Nat) : j ∈ fb.light k ↔ j = k ∨ j ∈ fb := by
  induction fb with
  | nil => simp [Framebuffer.light]
  | cons a fb ih =>
    simp only [Framebuffer.light]
    split_ifs
    · simp
    · simp only [List.mem_cons, ih]; tauto

/-- A cell after one cell is toggled (R211). -/
theorem Framebuffer.lit_toggle (fb : Framebuffer) (k j : Nat) : (fb.toggle k).lit j = if j = k then !fb.lit j else fb.lit j := by
  rw [Bool.eq_iff_iff]
  unfold Framebuffer.toggle
  by_cases hk : fb.lit k = true
  · rw [if_pos hk]
    by_cases hj : j = k
    · subst hj; simp [Framebuffer.lit_iff, hk]
    · simp [Framebuffer.lit_iff, hj]
  · rw [if_neg hk, Framebuffer.lit_iff, Framebuffer.mem_light]
    by_cases hj : j = k
    · subst hj; simp [hk]
    · simp [Framebuffer.lit_iff, hj]

/-- Every cell of a framebuffer in canonical form lies above its first cell. -/
theorem Framebuffer.wf_cons {a : Nat} {fb : Framebuffer} :
    Framebuffer.wf (a :: fb) = true ↔ (∀ j ∈ fb, a < j) ∧ Framebuffer.wf fb = true := by
  induction fb generalizing a with
  | nil => simp [Framebuffer.wf]
  | cons b fb ih =>
    simp only [Framebuffer.wf, Bool.and_eq_true, decide_eq_true_eq, List.forall_mem_cons]
    constructor
    · rintro ⟨h, hw⟩
      exact ⟨⟨h, fun e he => lt_trans h ((ih.1 hw).1 e he)⟩, hw⟩
    · rintro ⟨⟨h, _⟩, hw⟩
      exact ⟨h, hw⟩

theorem Framebuffer.wf_filter {fb : Framebuffer} (h : fb.wf = true) (p : Nat → Bool) : Framebuffer.wf (fb.filter p) = true := by
  induction fb with
  | nil => rfl
  | cons a fb ih =>
    have ha := Framebuffer.wf_cons.1 h
    rw [List.filter_cons]
    split
    · exact Framebuffer.wf_cons.2 ⟨fun j hj => ha.1 j (List.mem_filter.1 hj).1, ih ha.2⟩
    · exact ih ha.2

theorem Framebuffer.wf_light {fb : Framebuffer} (h : fb.wf = true) {k : Nat} (hk : k ∉ fb) : (fb.light k).wf = true := by
  induction fb with
  | nil => simp [Framebuffer.light, Framebuffer.wf]
  | cons a fb ih =>
    have ha := Framebuffer.wf_cons.1 h
    simp only [List.mem_cons, not_or] at hk
    simp only [Framebuffer.light]
    split_ifs with hlt
    · refine Framebuffer.wf_cons.2 ⟨?_, h⟩
      intro j hj
      rcases List.mem_cons.1 hj with rfl | hj
      · exact hlt
      · exact lt_trans hlt (ha.1 j hj)
    · refine Framebuffer.wf_cons.2 ⟨?_, ih ha.2 hk.2⟩
      intro j hj
      rcases (Framebuffer.mem_light _ _ _).1 hj with rfl | hj
      · omega
      · exact ha.1 j hj

/-- Toggling a cell keeps the canonical form. -/
theorem Framebuffer.wf_toggle {fb : Framebuffer} (h : fb.wf = true) (k : Nat) : (fb.toggle k).wf = true := by
  unfold Framebuffer.toggle
  split
  · exact Framebuffer.wf_filter h _
  · next hk => exact Framebuffer.wf_light h (by simpa [Framebuffer.lit] using hk)

/-- Toggling a cell of the mode keeps every lit cell inside the mode. -/
theorem Framebuffer.fits_toggle {fb : Framebuffer} {m : Mode} (h : fb.fits m = true) {k : Nat} (hk : k < m.cells) :
    (fb.toggle k).fits m = true := by
  simp only [Framebuffer.fits, List.all_eq_true, decide_eq_true_eq] at *
  intro j hj
  unfold Framebuffer.toggle at hj
  split at hj
  · exact h j (List.mem_filter.1 hj).1
  · rcases (Framebuffer.mem_light _ _ _).1 hj with rfl | hj
    · exact hk
    · exact h j hj

/-- A visible pixel's index is a cell of the mode under both clipping rules (R213). -/
theorem visible_cells {clip : Config.DrawClip} {m : Mode} {x y : Nat} (h : visible clip m x y = true) :
    y * m.width + x < m.cells := by
  cases clip with
  | indexOnly => simpa [visible] using h
  | perAxis =>
    simp only [visible, Bool.and_eq_true, decide_eq_true_eq] at h
    unfold Mode.cells
    cases m <;> simp only [Mode.width, Mode.height] at * <;> omega

/-- Plotting any pixels keeps the canonical form and the size. -/
theorem foldl_plot_keeps {clip : Config.DrawClip} {m : Mode} (ps : List (Nat × Nat)) {c : Framebuffer × Bool}
    (h : c.1.wf = true ∧ c.1.fits m = true) :
    (ps.foldl (plot clip m) c).1.wf = true ∧ (ps.foldl (plot clip m) c).1.fits m = true := by
  induction ps generalizing c with
  | nil => exact h
  | cons p ps ih =>
    refine ih ?_
    simp only [plot]
    split
    · next hv => exact ⟨Framebuffer.wf_toggle h.1 _, Framebuffer.fits_toggle h.2 (visible_cells hv)⟩
    · exact h

/-! ### A whole sprite -/

/-- A cell after one pixel is plotted (R211). -/
theorem plot_lit (clip : Config.DrawClip) (m : Mode) (c : Framebuffer × Bool) (p : Nat × Nat) (k : Nat) :
    (plot clip m c p).1.lit k =
      if visible clip m p.1 p.2 = true ∧ p.2 * m.width + p.1 = k then !c.1.lit k else c.1.lit k := by
  unfold plot
  by_cases hv : visible clip m p.1 p.2 = true
  · simp only [hv, if_true, true_and]
    rw [Framebuffer.lit_toggle]
    by_cases hk : k = p.2 * m.width + p.1
    · simp [hk]
    · rw [if_neg hk, if_neg (Ne.symm hk)]
  · simp [hv]

/-- Plotting pixels of distinct cells flips each visible one once, and the flag says whether one of them was lit (R211, R213). -/
theorem foldl_plot_distinct {clip : Config.DrawClip} {m : Mode} {ps : List (Nat × Nat)}
    (hd : ps.Pairwise (fun p q => p.2 * m.width + p.1 ≠ q.2 * m.width + q.1)) (c : Framebuffer × Bool) :
    (∀ k, (ps.foldl (plot clip m) c).1.lit k =
      if ∃ p ∈ ps, visible clip m p.1 p.2 = true ∧ p.2 * m.width + p.1 = k then !c.1.lit k else c.1.lit k) ∧
    ((ps.foldl (plot clip m) c).2 = true ↔
      c.2 = true ∨ ∃ p ∈ ps, visible clip m p.1 p.2 = true ∧ c.1.lit (p.2 * m.width + p.1) = true) := by
  induction ps generalizing c with
  | nil => simp
  | cons p ps ih =>
    obtain ⟨hp, hd⟩ := List.pairwise_cons.1 hd
    obtain ⟨h1, h2⟩ := ih hd (plot clip m c p)
    constructor
    · intro k
      rw [List.foldl_cons, h1, plot_lit]
      by_cases hk : visible clip m p.1 p.2 = true ∧ p.2 * m.width + p.1 = k
      · have hn : ¬ ∃ q ∈ ps, visible clip m q.1 q.2 = true ∧ q.2 * m.width + q.1 = k := by
          rintro ⟨q, hq, -, e⟩; exact hp q hq (hk.2.trans e.symm)
        rw [if_neg hn, if_pos hk, if_pos ⟨p, by simp, hk⟩]
      · rw [if_neg hk]
        congr 1
        simp only [List.mem_cons, eq_iff_iff]
        constructor
        · rintro ⟨q, hq, h⟩; exact ⟨q, Or.inr hq, h⟩
        · rintro ⟨q, rfl | hq, h⟩
          · exact absurd h hk
          · exact ⟨q, hq, h⟩
    · rw [List.foldl_cons, h2]
      have h3 : (plot clip m c p).2 = true ↔ c.2 = true ∨ (visible clip m p.1 p.2 = true ∧ c.1.lit (p.2 * m.width + p.1) = true) := by
        unfold plot; by_cases hv : visible clip m p.1 p.2 = true <;> simp [hv]
      rw [h3]
      have h4 : ∀ q ∈ ps, (plot clip m c p).1.lit (q.2 * m.width + q.1) = c.1.lit (q.2 * m.width + q.1) := by
        intro q hq; rw [plot_lit, if_neg]; rintro ⟨-, e⟩; exact hp q hq e
      constructor
      · rintro ((h | h) | ⟨q, hq, hv, hl⟩)
        · exact Or.inl h
        · exact Or.inr ⟨p, by simp, h⟩
        · exact Or.inr ⟨q, by simp [hq], hv, by rw [← h4 q hq]; exact hl⟩
      · rintro (h | ⟨q, hq, hv, hl⟩)
        · exact Or.inl (Or.inl h)
        · rcases List.mem_cons.1 hq with rfl | hq
          · exact Or.inl (Or.inr ⟨hv, hl⟩)
          · exact Or.inr ⟨q, hq, hv, by rw [h4 q hq]; exact hl⟩

/-- The set pixels of a sprite's rows are those of its set bits (R210, R216). -/
theorem mem_spritePixels (width x0 y : Nat) (rows : List Nat) (p : Nat × Nat) :
    p ∈ spritePixels width x0 y rows ↔
      ∃ r c, ∃ h : r < rows.length, c < width ∧ (rows[r]).testBit (width - 1 - c) = true ∧ p = (x0 + c, y + r) := by
  induction rows generalizing y with
  | nil => simp [spritePixels]
  | cons bits rows ih =>
    simp only [spritePixels, List.mem_append, ih]
    constructor
    · rintro (h | ⟨r, c, h, hc, hb, rfl⟩)
      · simp only [rowPixels, List.mem_map, List.mem_filter, List.mem_range] at h
        obtain ⟨c, ⟨hc, hb⟩, rfl⟩ := h
        exact ⟨0, c, by simp, hc, hb, rfl⟩
      · exact ⟨r + 1, c, by simpa using h, hc, by simpa using hb, by simp; omega⟩
    · rintro ⟨r, c, h, hc, hb, rfl⟩
      cases r with
      | zero => exact Or.inl (by simp only [rowPixels, List.mem_map, List.mem_filter, List.mem_range]; exact ⟨c, ⟨hc, hb⟩, rfl⟩)
      | succ r => exact Or.inr ⟨r, c, by simpa using h, hc, by simpa using hb, by simp; omega⟩

/-- The set pixels of a sprite no wider than the screen fall on distinct cells. -/
theorem spritePixels_distinct (width x0 y W : Nat) (hw : width ≤ W) (rows : List Nat) :
    (spritePixels width x0 y rows).Pairwise (fun p q => p.2 * W + p.1 ≠ q.2 * W + q.1) := by
  induction rows generalizing y with
  | nil => exact List.Pairwise.nil
  | cons bits rows ih =>
    refine List.pairwise_append.2 ⟨?_, ih _, ?_⟩
    · refine List.Pairwise.map (R := (· < ·)) _ ?_ (List.Pairwise.filter _ List.pairwise_lt_range)
      intro a b h; simp only; omega
    · intro p hp q hq
      simp only [rowPixels, List.mem_map, List.mem_filter, List.mem_range] at hp
      obtain ⟨c, ⟨hc, -⟩, rfl⟩ := hp
      obtain ⟨r, d, -, hd, -, rfl⟩ := (mem_spritePixels _ _ _ _ _).1 hq
      simp only
      have : (y + 1 + r) * W = y * W + W + r * W := by ring
      rw [this]
      have : 0 ≤ r * W := Nat.zero_le _
      omega

/-- Two bytes a row (R212). -/
theorem length_wideRows (bs : List Byte) : (wideRows bs).length = bs.length / 2 := by
  induction bs using wideRows.induct with
  | case1 hi lo bs ih => simp only [wideRows, List.length_cons, ih]; omega
  | case2 bs h =>
    match bs, h with
    | [], _ => rfl
    | [_], _ => simp [wideRows]
    | a :: b :: bs, h => exact absurd rfl (h a b bs)

/-- Row `r` of the 16 x 16 form: the byte at `2r` is its left half (R212). -/
theorem getElem_wideRows (bs : List Byte) (r : Nat) (h : r < (wideRows bs).length) :
    (wideRows bs)[r] = (bs[2 * r]'(by rw [length_wideRows] at h; omega)).toNat * 256 +
      (bs[2 * r + 1]'(by rw [length_wideRows] at h; omega)).toNat := by
  induction bs using wideRows.induct generalizing r with
  | case1 hi lo bs ih =>
    cases r with
    | zero => rfl
    | succ r =>
      simp only [wideRows, List.getElem_cons_succ]
      rw [ih]; rfl
  | case2 bs hh =>
    match bs, hh with
    | [], _ => simp [wideRows] at h
    | [_], _ => simp [wideRows] at h
    | a :: b :: bs, hh => exact absurd rfl (hh a b bs)

end Sys2Proof.Machine
end

