-- ==== Sys2Proof/Laws/Memory.lean ====
section
/-! SUPPORT. Memory: a read after a write, that every operation keeps the canonical form, and all that a block access can do. -/

namespace Sys2Proof.Machine

/-! ### The list of stored bytes -/

/-- Looking up an address after a byte is put. -/
theorem Memory.get?_put (m : Memory) (a : Nat) (v : Byte) (b : Nat) :
    (m.put a v).get? b = if a = b then some v else m.get? b := by
  induction m with
  | nil => simp [Memory.put, Memory.get?]
  | cons c m ih =>
    obtain ⟨k, w⟩ := c
    simp only [Memory.put]
    split_ifs with h1 h2 h3 h3 h3 <;> (simp_all [Memory.get?]; try omega)

/-- Every entry of a memory in canonical form lies above its first address. -/
theorem Memory.wf_cons {c : Host.Cell} {m : Memory} :
    Memory.wf (c :: m) = true ↔ (∀ d ∈ m, c.1 < d.1) ∧ Memory.wf m = true := by
  induction m generalizing c with
  | nil => simp [Memory.wf]
  | cons d m ih =>
    simp only [Memory.wf, Bool.and_eq_true, decide_eq_true_eq, List.forall_mem_cons]
    constructor
    · rintro ⟨h, hw⟩
      exact ⟨⟨h, fun e he => lt_trans h ((ih.1 hw).1 e he)⟩, hw⟩
    · rintro ⟨⟨h, _⟩, hw⟩
      exact ⟨h, hw⟩

/-- An entry after a byte is put is the new one or an old one. -/
theorem Memory.mem_put {m : Memory} {a : Nat} {v : Byte} {d : Host.Cell} (h : d ∈ m.put a v) : d = (a, v) ∨ d ∈ m := by
  induction m with
  | nil => simpa [Memory.put] using h
  | cons c m ih =>
    obtain ⟨k, w⟩ := c
    simp only [Memory.put] at h
    split_ifs at h <;> simp_all <;> tauto

/-- Putting a byte keeps the canonical form. -/
theorem Memory.wf_put {m : Memory} (h : m.wf = true) (a : Nat) (v : Byte) : (m.put a v).wf = true := by
  induction m with
  | nil => simp [Memory.put, Memory.wf]
  | cons c m ih =>
    obtain ⟨k, w⟩ := c
    have hc := Memory.wf_cons.1 h
    simp only [Memory.put]
    split_ifs with h1 h2
    · refine Memory.wf_cons.2 ⟨?_, h⟩
      intro d hd
      rcases List.mem_cons.1 hd with rfl | hd
      · exact h1
      · exact lt_trans h1 (hc.1 d hd)
    · subst h2
      exact Memory.wf_cons.2 ⟨hc.1, hc.2⟩
    · refine Memory.wf_cons.2 ⟨?_, ih hc.2⟩
      intro d hd
      rcases Memory.mem_put hd with rfl | hd
      · show k < a
        omega
      · exact hc.1 d hd

/-- Putting a byte below a bound keeps every entry below it. -/
theorem Memory.below_put {m : Memory} {bound : Nat} (h : m.below bound = true) {a : Nat} (ha : a < bound) (v : Byte) :
    (m.put a v).below bound = true := by
  simp only [Memory.below, List.all_eq_true, decide_eq_true_eq] at *
  intro d hd
  rcases Memory.mem_put hd with rfl | hd
  · exact ha
  · exact h d hd

/-- Looking up an address after a block of bytes is put at `a`. -/
theorem Memory.get?_putAll (m : Memory) (a : Nat) (bs : List Byte) (b : Nat) :
    (m.putAll a bs).get? b = if h : a ≤ b ∧ b - a < bs.length then some (bs[b - a]'h.2) else m.get? b := by
  induction bs generalizing m a with
  | nil => simp [Memory.putAll]
  | cons v bs ih =>
    rw [Memory.putAll, ih]
    by_cases h1 : a + 1 ≤ b
    · have e : b - a = (b - (a + 1)) + 1 := by omega
      by_cases h2 : b - (a + 1) < bs.length
      · rw [dif_pos ⟨h1, h2⟩, dif_pos (by simp; omega)]
        simp [e]
      · rw [dif_neg (by omega), dif_neg (by simp; omega), Memory.get?_put, if_neg (by omega)]
    · rw [dif_neg (by omega), Memory.get?_put]
      by_cases h3 : a = b
      · subst h3; simp
      · rw [if_neg h3, dif_neg (by omega)]

/-- Putting a block keeps the canonical form. -/
theorem Memory.wf_putAll {m : Memory} (h : m.wf = true) (a : Nat) (bs : List Byte) : (m.putAll a bs).wf = true := by
  induction bs generalizing m a with
  | nil => exact h
  | cons b bs ih => exact ih (Memory.wf_put h a b) (a + 1)

/-- Putting a block below a bound keeps every entry below it. -/
theorem Memory.below_putAll {m : Memory} {bound : Nat} (h : m.below bound = true) {a : Nat} {bs : List Byte}
    (ha : a + bs.length ≤ bound) : (m.putAll a bs).below bound = true := by
  induction bs generalizing m a with
  | nil => exact h
  | cons b bs ih =>
    simp only [List.length_cons] at ha
    exact ih (Memory.below_put h (by omega) b) (by omega)

/-! ### Bytes of the state -/

/-- A byte reads the same in two states with the same memory, configuration and reset draw. -/
theorem State.byte_congr {s t : State} (hm : t.mem = s.mem) (hc : t.cfg = s.cfg) (hi : t.initDraw = s.initDraw) (a : Nat) :
    t.byte a = s.byte a := by
  simp [State.byte, State.initByte, hm, hc, hi]

/-- Above the fonts, an address that holds no stored byte reads as the draw of the last Init (R62). -/
theorem State.byte_unlisted {s : State} {a : Nat} (h : s.mem.get? a = none) (ha : 240 ≤ a) :
    s.byte a = Config.memInit s.initDraw a := by
  simp [State.byte, State.initByte, h, show ¬ a < 80 by omega, show ¬ a < 240 by omega]

/-- A byte read after a block of bytes is put. -/
theorem State.byte_putAll (s : State) (a : Nat) (bs : List Byte) (b : Nat) :
    State.byte { s with mem := s.mem.putAll a bs } b =
      if h : a ≤ b ∧ b - a < bs.length then bs[b - a]'h.2 else s.byte b := by
  simp only [State.byte, Memory.get?_putAll]
  split <;> rfl

/-! ### The primitives and block accesses -/

theorem memRead_ok {s : State} {a : Nat} (h : a < s.cfg.memSize.bytes) : memRead s a = .ok (s.byte a) := by
  simp [memRead, h]

theorem memRead_error {s : State} {a : Nat} (h : s.cfg.memSize.bytes ≤ a) : memRead s a = .error (.memOutOfRange a) := by
  simp [memRead, Nat.not_lt.2 h]

theorem memWrite_ok {s : State} {a : Nat} (v : Byte) (h : a < s.cfg.memSize.bytes) :
    memWrite s a v = .ok { s with mem := s.mem.put a v } := by
  simp [memWrite, h]

theorem memWrite_error {s : State} {a : Nat} (v : Byte) (h : s.cfg.memSize.bytes ≤ a) :
    memWrite s a v = .error (.memOutOfRange a) := by
  simp [memWrite, Nat.not_lt.2 h]

/-- A block read inside memory gives the bytes in ascending order. -/
theorem loadBytes_ok {s : State} {a n : Nat} (h : a + n ≤ s.cfg.memSize.bytes ∨ n = 0) :
    loadBytes s a n = .ok ((List.range n).map (fun k => s.byte (a + k))) := by
  induction n generalizing a with
  | zero => rfl
  | succ n ih =>
    have h' : a + (n + 1) ≤ s.cfg.memSize.bytes := by omega
    rw [loadBytes, memRead_ok (by omega), ih (Or.inl (by omega))]
    simp [List.range_succ_eq_map, Function.comp_def, Nat.add_assoc, Nat.add_comm 1]

/-- A block read that leaves memory faults at the lowest address outside it (R274). -/
theorem loadBytes_error {s : State} {a n : Nat} (h : s.cfg.memSize.bytes < a + n) (hn : 0 < n) :
    loadBytes s a n = .error (.memOutOfRange (max a s.cfg.memSize.bytes)) := by
  induction n generalizing a with
  | zero => omega
  | succ n ih =>
    by_cases ha : a < s.cfg.memSize.bytes
    · rw [loadBytes, memRead_ok ha]
      by_cases hn' : n = 0
      · omega
      · rw [ih (by omega) (by omega)]
        simp; omega
    · rw [loadBytes, memRead_error (by omega)]
      simp; omega

/-- A block write inside memory puts the bytes and changes nothing else. -/
theorem storeBytes_ok {s : State} {a : Nat} {bs : List Byte} (h : a + bs.length ≤ s.cfg.memSize.bytes ∨ bs = []) :
    storeBytes s a bs = .ok { s with mem := s.mem.putAll a bs } := by
  induction bs generalizing s a with
  | nil => rfl
  | cons b bs ih =>
    have h' : a + (bs.length + 1) ≤ s.cfg.memSize.bytes := by simpa using h
    rw [storeBytes, memWrite_ok b (by omega)]
    simp only
    rw [ih (Or.inl (by simpa using by omega))]
    rfl

/-- A block write that leaves memory faults at the lowest address outside it (R274). -/
theorem storeBytes_error {s : State} {a : Nat} {bs : List Byte} (h : s.cfg.memSize.bytes < a + bs.length) (hn : bs ≠ []) :
    storeBytes s a bs = .error (.memOutOfRange (max a s.cfg.memSize.bytes)) := by
  induction bs generalizing s a with
  | nil => exact absurd rfl hn
  | cons b bs ih =>
    simp only [List.length_cons] at h
    by_cases ha : a < s.cfg.memSize.bytes
    · rw [storeBytes, memWrite_ok b ha]
      by_cases hn' : bs = []
      · subst hn'; simp at h; omega
      · simp only
        rw [ih (by simpa using by omega) hn']
        simp; omega
    · rw [storeBytes, memWrite_error b (by omega)]
      simp; omega

/-- A byte write keeps the canonical form, and every byte inside memory. -/
theorem memWrite_keeps {s t : State} {a : Nat} {v : Byte} (h : memWrite s a v = .ok t)
    (hs : s.mem.wf = true ∧ s.mem.below s.cfg.memSize.bytes = true) :
    t.mem.wf = true ∧ t.mem.below t.cfg.memSize.bytes = true := by
  unfold memWrite at h
  split at h
  · next ha => cases h; exact ⟨Memory.wf_put hs.1 a v, Memory.below_put hs.2 ha v⟩
  · cases h

/-- A block write keeps the canonical form, and every byte inside memory. -/
theorem storeBytes_keeps {s t : State} {a : Nat} {bs : List Byte} (h : storeBytes s a bs = .ok t)
    (hs : s.mem.wf = true ∧ s.mem.below s.cfg.memSize.bytes = true) :
    t.mem.wf = true ∧ t.mem.below t.cfg.memSize.bytes = true := by
  induction bs generalizing s a with
  | nil => cases h; exact hs
  | cons b bs ih =>
    rw [storeBytes] at h
    split at h
    · cases h
    · next u hu => exact ih h (memWrite_keeps hu hs)

/-- Memory after reset and after an Init is in canonical form: it lists nothing. -/
theorem State.reset_mem_wf : State.reset.mem.wf = true := rfl

theorem State.init_mem_wf (s : State) : s.init.mem.wf = true := rfl

/-- All that a block write can do. -/
theorem storeBytes_cases (s : State) (a : Nat) (bs : List Byte) :
    ((a + bs.length ≤ s.cfg.memSize.bytes ∨ bs = []) ∧ storeBytes s a bs = .ok { s with mem := s.mem.putAll a bs }) ∨
    (s.cfg.memSize.bytes < a + bs.length ∧ storeBytes s a bs = .error (.memOutOfRange (max a s.cfg.memSize.bytes))) := by
  by_cases h : a + bs.length ≤ s.cfg.memSize.bytes ∨ bs = []
  · exact Or.inl ⟨h, storeBytes_ok h⟩
  · push Not at h
    exact Or.inr ⟨h.1, storeBytes_error h.1 h.2⟩

/-- All that a block read can do. -/
theorem loadBytes_cases (s : State) (a n : Nat) :
    ((a + n ≤ s.cfg.memSize.bytes ∨ n = 0) ∧ loadBytes s a n = .ok ((List.range n).map (fun k => s.byte (a + k)))) ∨
    (s.cfg.memSize.bytes < a + n ∧ loadBytes s a n = .error (.memOutOfRange (max a s.cfg.memSize.bytes))) := by
  by_cases h : a + n ≤ s.cfg.memSize.bytes ∨ n = 0
  · exact Or.inl ⟨h, loadBytes_ok h⟩
  · push Not at h
    exact Or.inr ⟨h.1, loadBytes_error h.1 (by omega)⟩

end Sys2Proof.Machine
end

