-- ==== Sys2Proof/Laws/Ops.lean ====
section
/-! SUPPORT. All that each shared operation can do: push, pop, key number, key wait, block moves, the memory bank of an instruction. -/

namespace Sys2Proof.Machine

/-- All that a push can do (R152). -/
theorem State.pushAndJump_cases (s : State) (target : Word) :
    (s.sp = 16 ∧ s.pushAndJump target = .fault (.stackOverflow s.pc)) ∨
    (∃ h : s.sp.toNat < 16, s.pushAndJump target =
      .next { s with stack := s.stack.set s.sp.toNat s.pc h, sp := s.sp + 1, pc := target }) ∨
    (16 < s.sp.toNat ∧ s.pushAndJump target = .refused (.illegalStackPointer s.sp)) := by
  unfold State.pushAndJump
  split_ifs with h1 h2
  · exact Or.inl ⟨h1, rfl⟩
  · exact Or.inr (Or.inl ⟨h2, rfl⟩)
  · have h3 : s.sp.toNat ≠ 16 := fun e => h1 (BitVec.eq_of_toNat_eq (by simpa using e))
    exact Or.inr (Or.inr ⟨by omega, rfl⟩)

/-- All that a pop can do (R132). -/
theorem State.popPc_cases (s : State) :
    (s.sp = 0 ∧ s.popPc = .fault (.stackUnderflow s.pc)) ∨
    (∃ h : s.sp.toNat - 1 < 16, 0 < s.sp.toNat ∧ s.sp.toNat ≤ 16 ∧
      s.popPc = .next { s with sp := s.sp - 1, pc := s.stack[s.sp.toNat - 1]'h }) ∨
    (16 < s.sp.toNat ∧ s.popPc = .refused (.illegalStackPointer s.sp)) := by
  unfold State.popPc
  split_ifs with h1 h2
  · exact Or.inl ⟨h1, rfl⟩
  · have h3 : s.sp.toNat ≠ 0 := fun e => h1 (BitVec.eq_of_toNat_eq (by simpa using e))
    exact Or.inr (Or.inl ⟨h2, by omega, by omega, rfl⟩)
  · exact Or.inr (Or.inr ⟨by omega, rfl⟩)

theorem keyIndex_ok {v : Byte} (h : v.toNat < 16) : keyIndex v = .ok ⟨v.toNat, h⟩ := by
  simp [keyIndex, h]

theorem keyIndex_error {v : Byte} (h : ¬ v.toNat < 16) : keyIndex v = .error (.keyIndexOutOfRange v) := by
  simp [keyIndex, h]

/-- The key wait finds a key exactly when it is down and every lower one is up (R241). -/
theorem State.firstKey_eq_some (s : State) (k : Fin 16) :
    s.firstKey = some k ↔ s.keyDown k = true ∧ ∀ j : Fin 16, j < k → s.keyDown j = false := by
  unfold State.firstKey
  rw [List.find?_eq_some_iff_getElem]
  constructor
  · rintro ⟨hk, i, hi, rfl, hlow⟩
    refine ⟨hk, fun j hj => ?_⟩
    have := hlow j.val (by simpa [Fin.lt_def] using hj)
    simpa using this
  · rintro ⟨hk, hlow⟩
    refine ⟨hk, k.val, by simp, by simp, fun j hj => ?_⟩
    have := hlow ⟨j, by omega⟩ (by simpa [Fin.lt_def] using hj)
    simpa using this

/-- The key wait finds no key exactly when all are up (R241). -/
theorem State.firstKey_eq_none (s : State) : s.firstKey = none ↔ ∀ k : Fin 16, s.keyDown k = false := by
  simp [State.firstKey]

/-- A key sample is the next one supplied, or a free one (R66). -/
theorem State.sampleKeys_keys (s : State) : s.sampleKeys.keys = s.keySamples.headD (Config.keySample s.keyDraw) := by
  unfold State.sampleKeys; split <;> simp_all

theorem State.sampleKeys_keySamples (s : State) : s.sampleKeys.keySamples = s.keySamples.tail := by
  unfold State.sampleKeys; split <;> simp_all

/-- A free sample is used up only when no sample is supplied (R66). -/
theorem State.sampleKeys_keyDraw (s : State) :
    s.sampleKeys.keyDraw = if s.keySamples = [] then s.keyDraw + 1 else s.keyDraw := by
  unfold State.sampleKeys; split <;> simp_all

/-- A draw uses up the next random byte supplied (R203). -/
theorem State.dropRandom_randomBytes (s : State) : s.dropRandom.randomBytes = s.randomBytes.tail := by
  unfold State.dropRandom; split <;> simp_all

/-- A free byte is used up only when no byte is supplied (R203). -/
theorem State.dropRandom_randomDraw (s : State) :
    s.dropRandom.randomDraw = if s.randomBytes = [] then s.randomDraw + 1 else s.randomDraw := by
  unfold State.dropRandom; split <;> simp_all

/-- SP stays legal over a push (R30). -/
theorem sp_push_le {sp : Word} (h : sp.toNat < 16) : sp + 1 ≤ 16 := by
  rw [BitVec.le_def]; simp [BitVec.toNat_add]; omega

/-- SP stays legal over a pop (R30). -/
theorem sp_pop_le {sp : Word} (h : 0 < sp.toNat) (h' : sp.toNat ≤ 16) : sp - 1 ≤ 16 := by
  rw [BitVec.le_def]; simp [BitVec.toNat_sub]; omega

/-- BCD writes three bytes (R251). -/
@[simp] theorem decimalDigits_length (v : Byte) : (decimalDigits v).length = 3 := rfl

/-- The sprite of DXYN draws the visible pixels in canonical form (R210). -/
theorem State.paint_fb_keeps {s : State} (h : s.fb.wf = true ∧ s.fb.fits s.mode = true) (ps : List (Nat × Nat)) :
    (s.paint ps).fb.wf = true ∧ (s.paint ps).fb.fits (s.paint ps).mode = true :=
  foldl_plot_keeps ps h

end Sys2Proof.Machine
end

