-- ==== Sys2Proof/Laws/Cycle.lean ====
section
/-! SUPPORT. All that a fetch, a cycle and a step can do. -/

namespace Sys2Proof.Machine

/-- The fetch of a core whose PC and PC + 1 lie in memory (R110). -/
theorem fetch_ok {s : State} (h : s.pc.toNat + 1 < s.cfg.memSize.bytes) :
    fetch s = .ok (wordOfBytes (s.byte s.pc.toNat) (s.byte (s.pc.toNat + 1))) := by
  simp [fetch, memRead_ok (show s.pc.toNat < s.cfg.memSize.bytes by omega), memRead_ok h]

/-- The fetch faults at the first of its two bytes that lies outside memory (R274). -/
theorem fetch_error {s : State} (h : s.cfg.memSize.bytes ≤ s.pc.toNat + 1) :
    fetch s = .error (.memOutOfRange (max s.pc.toNat s.cfg.memSize.bytes)) := by
  by_cases h1 : s.pc.toNat < s.cfg.memSize.bytes
  · simp [fetch, memRead_ok h1, memRead_error h]; omega
  · simp [fetch, memRead_error (show s.cfg.memSize.bytes ≤ s.pc.toNat by omega)]; omega

/-- The key sample changes nothing the fetch reads (R66, R110). -/
@[simp] theorem fetch_sampleKeys (s : State) : fetch s.sampleKeys = fetch s := by
  simp [fetch, memRead]

/-- A step of a running core that fetches `w` is the execute step of what `w` decodes to (R114). -/
theorem step_of_fetch {s : State} {w : Word} (hl : s.loaded = true) (hf : s.fault = none) (hw : fetch s = .ok w) :
    step s = runInstr (decodeWord w) (s.sampleKeys.latch w) := by
  simp [step, cycleIfRunning, cycle, hl, hf, hw]

/-- A step of a core that the driver runs is one cycle (R122). -/
theorem step_of_running {s : State} (h : s.running = true) : step s = cycle s := by
  simp only [State.running, Bool.and_eq_true, Option.isNone_iff_eq_none] at h
  simp [step, cycleIfRunning, h]

/-- The driver runs no cycle exactly in an idle or faulted core (R122). -/
theorem State.not_running_iff (s : State) : s.running = false ↔ s.loaded = false ∨ s.fault ≠ none := by
  cases h : s.loaded <;> cases hf : s.fault <;> simp [State.running, h, hf]

/-- All that a step can do: stay stopped, stay idle, fault in the fetch, or run the fetched word (R110, R114, R122). -/
theorem step_cases (s : State) :
    (∃ f, s.fault = some f ∧ step s = .fault f) ∨
    (s.fault = none ∧ s.loaded = false ∧ step s = .next s) ∨
    (s.fault = none ∧ s.loaded = true ∧ ∃ f, fetch s = .error f ∧ step s = .fault f) ∨
    (s.fault = none ∧ s.loaded = true ∧ ∃ w, fetch s = .ok w ∧ step s = runInstr (decodeWord w) (s.sampleKeys.latch w)) := by
  cases hf : s.fault with
  | some f => exact Or.inl ⟨f, rfl, by simp [step, cycleIfRunning, hf]⟩
  | none =>
    cases hl : s.loaded with
    | false => exact Or.inr (Or.inl ⟨rfl, rfl, by simp [step, cycleIfRunning, hf, hl]⟩)
    | true =>
      cases hw : fetch s with
      | error f => exact Or.inr (Or.inr (Or.inl ⟨rfl, rfl, f, rfl, by simp [step, cycleIfRunning, cycle, hf, hl, hw]⟩))
      | ok w => exact Or.inr (Or.inr (Or.inr ⟨rfl, rfl, w, rfl, step_of_fetch hl hf hw⟩))

/-- The execute step and the end of the cycle go on only when the instruction does (R115). -/
theorem runInstr_next {i : Instr} {s u : State} (h : runInstr i s = .next u) : ∃ t, exec i s = .next t ∧ u = t.endCycle := by
  unfold runInstr at h
  split at h
  · next t ht => exact ⟨t, ht, by simpa using h.symm⟩
  · simp at h
  · simp at h

end Sys2Proof.Machine
end

