-- ==== Sys2Proof/Laws/PerInstr.lean ====
section
/-! SUPPORT. The family RowEncoding: the word of a well-formed instruction lies in its own row of the opcode map (R94), and an
unrecognised word in none (R95). One lemma per constructor. -/

namespace Sys2Proof.Laws.RowEncoding

/-- The encoding of a well-formed instruction is a word of the instruction's row of R94; that of an unrecognised word is a word of no
row (R95). -/
def Statement (i : Instr) : Prop :=
  i.wellFormed = true →
    match i.row with
    | some r => r.accepts (encode i) = true
    | none => recognised (encode i) = false

/-- A row accepts a word that agrees with its value on every bit of its mask. -/
theorem accepts_of_bits {m v w : Word} (h : ∀ k, k < 16 → (w.getLsbD k && m.getLsbD k) = v.getLsbD k) :
    OpcodeRow.accepts ⟨m, v⟩ w = true := by
  simp only [OpcodeRow.accepts, beq_iff_eq]
  exact BitVec.eq_of_getLsbD_eq (fun k hk => by rw [BitVec.getLsbD_and]; exact h k hk)

theorem cls : Statement .cls := fun _ => rfl

theorem ret : Statement .ret := fun _ => rfl

theorem high : Statement .high := fun _ => rfl

theorem low : Statement .low := fun _ => rfl

theorem exit : Statement .exit := fun _ => rfl

theorem scr : Statement .scr := fun _ => rfl

theorem scl : Statement .scl := fun _ => rfl

theorem scd (n : Nibble) : Statement (.scd n) := fun _ => by
  refine accepts_of_bits fun k hk => ?_
  simp only [encode, BitVec.getLsbD_append]
  interval_cases k <;> simp

theorem jp (nnn : Addr12) : Statement (.jp nnn) := fun _ => by
  refine accepts_of_bits fun k hk => ?_
  simp only [encode, BitVec.getLsbD_append]
  interval_cases k <;> simp

theorem call (nnn : Addr12) : Statement (.call nnn) := fun _ => by
  refine accepts_of_bits fun k hk => ?_
  simp only [encode, BitVec.getLsbD_append]
  interval_cases k <;> simp

theorem seImm (x : Nibble) (nn : Byte) : Statement (.seImm x nn) := fun _ => by
  refine accepts_of_bits fun k hk => ?_
  simp only [encode, BitVec.getLsbD_append]
  interval_cases k <;> simp

theorem sneImm (x : Nibble) (nn : Byte) : Statement (.sneImm x nn) := fun _ => by
  refine accepts_of_bits fun k hk => ?_
  simp only [encode, BitVec.getLsbD_append]
  interval_cases k <;> simp

theorem seReg (x y : Nibble) : Statement (.seReg x y) := fun _ => by
  refine accepts_of_bits fun k hk => ?_
  simp only [encode, BitVec.getLsbD_append]
  interval_cases k <;> simp

theorem sneReg (x y : Nibble) : Statement (.sneReg x y) := fun _ => by
  refine accepts_of_bits fun k hk => ?_
  simp only [encode, BitVec.getLsbD_append]
  interval_cases k <;> simp

theorem ldImm (x : Nibble) (nn : Byte) : Statement (.ldImm x nn) := fun _ => by
  refine accepts_of_bits fun k hk => ?_
  simp only [encode, BitVec.getLsbD_append]
  interval_cases k <;> simp

theorem addImm (x : Nibble) (nn : Byte) : Statement (.addImm x nn) := fun _ => by
  refine accepts_of_bits fun k hk => ?_
  simp only [encode, BitVec.getLsbD_append]
  interval_cases k <;> simp

theorem ldReg (x y : Nibble) : Statement (.ldReg x y) := fun _ => by
  refine accepts_of_bits fun k hk => ?_
  simp only [encode, BitVec.getLsbD_append]
  interval_cases k <;> simp

theorem orReg (x y : Nibble) : Statement (.orReg x y) := fun _ => by
  refine accepts_of_bits fun k hk => ?_
  simp only [encode, BitVec.getLsbD_append]
  interval_cases k <;> simp

theorem andReg (x y : Nibble) : Statement (.andReg x y) := fun _ => by
  refine accepts_of_bits fun k hk => ?_
  simp only [encode, BitVec.getLsbD_append]
  interval_cases k <;> simp

theorem xorReg (x y : Nibble) : Statement (.xorReg x y) := fun _ => by
  refine accepts_of_bits fun k hk => ?_
  simp only [encode, BitVec.getLsbD_append]
  interval_cases k <;> simp

theorem addReg (x y : Nibble) : Statement (.addReg x y) := fun _ => by
  refine accepts_of_bits fun k hk => ?_
  simp only [encode, BitVec.getLsbD_append]
  interval_cases k <;> simp

theorem sub (x y : Nibble) : Statement (.sub x y) := fun _ => by
  refine accepts_of_bits fun k hk => ?_
  simp only [encode, BitVec.getLsbD_append]
  interval_cases k <;> simp

theorem shr (x y : Nibble) : Statement (.shr x y) := fun _ => by
  refine accepts_of_bits fun k hk => ?_
  simp only [encode, BitVec.getLsbD_append]
  interval_cases k <;> simp

theorem subn (x y : Nibble) : Statement (.subn x y) := fun _ => by
  refine accepts_of_bits fun k hk => ?_
  simp only [encode, BitVec.getLsbD_append]
  interval_cases k <;> simp

theorem shl (x y : Nibble) : Statement (.shl x y) := fun _ => by
  refine accepts_of_bits fun k hk => ?_
  simp only [encode, BitVec.getLsbD_append]
  interval_cases k <;> simp

theorem ldI (nnn : Addr12) : Statement (.ldI nnn) := fun _ => by
  refine accepts_of_bits fun k hk => ?_
  simp only [encode, BitVec.getLsbD_append]
  interval_cases k <;> simp

theorem jpV0 (nnn : Addr12) : Statement (.jpV0 nnn) := fun _ => by
  refine accepts_of_bits fun k hk => ?_
  simp only [encode, BitVec.getLsbD_append]
  interval_cases k <;> simp

theorem rnd (x : Nibble) (nn : Byte) : Statement (.rnd x nn) := fun _ => by
  refine accepts_of_bits fun k hk => ?_
  simp only [encode, BitVec.getLsbD_append]
  interval_cases k <;> simp

theorem drw (x y n : Nibble) : Statement (.drw x y n) := fun _ => by
  refine accepts_of_bits fun k hk => ?_
  simp only [encode, BitVec.getLsbD_append]
  interval_cases k <;> simp

theorem skp (x : Nibble) : Statement (.skp x) := fun _ => by
  refine accepts_of_bits fun k hk => ?_
  simp only [encode, BitVec.getLsbD_append]
  interval_cases k <;> simp

theorem sknp (x : Nibble) : Statement (.sknp x) := fun _ => by
  refine accepts_of_bits fun k hk => ?_
  simp only [encode, BitVec.getLsbD_append]
  interval_cases k <;> simp

theorem ldVxDt (x : Nibble) : Statement (.ldVxDt x) := fun _ => by
  refine accepts_of_bits fun k hk => ?_
  simp only [encode, BitVec.getLsbD_append]
  interval_cases k <;> simp

theorem ldVxK (x : Nibble) : Statement (.ldVxK x) := fun _ => by
  refine accepts_of_bits fun k hk => ?_
  simp only [encode, BitVec.getLsbD_append]
  interval_cases k <;> simp

theorem ldDtVx (x : Nibble) : Statement (.ldDtVx x) := fun _ => by
  refine accepts_of_bits fun k hk => ?_
  simp only [encode, BitVec.getLsbD_append]
  interval_cases k <;> simp

theorem ldStVx (x : Nibble) : Statement (.ldStVx x) := fun _ => by
  refine accepts_of_bits fun k hk => ?_
  simp only [encode, BitVec.getLsbD_append]
  interval_cases k <;> simp

theorem addI (x : Nibble) : Statement (.addI x) := fun _ => by
  refine accepts_of_bits fun k hk => ?_
  simp only [encode, BitVec.getLsbD_append]
  interval_cases k <;> simp

theorem ldF (x : Nibble) : Statement (.ldF x) := fun _ => by
  refine accepts_of_bits fun k hk => ?_
  simp only [encode, BitVec.getLsbD_append]
  interval_cases k <;> simp

theorem ldHf (x : Nibble) : Statement (.ldHf x) := fun _ => by
  refine accepts_of_bits fun k hk => ?_
  simp only [encode, BitVec.getLsbD_append]
  interval_cases k <;> simp

theorem ldB (x : Nibble) : Statement (.ldB x) := fun _ => by
  refine accepts_of_bits fun k hk => ?_
  simp only [encode, BitVec.getLsbD_append]
  interval_cases k <;> simp

theorem ldMemVx (x : Nibble) : Statement (.ldMemVx x) := fun _ => by
  refine accepts_of_bits fun k hk => ?_
  simp only [encode, BitVec.getLsbD_append]
  interval_cases k <;> simp

theorem ldVxMem (x : Nibble) : Statement (.ldVxMem x) := fun _ => by
  refine accepts_of_bits fun k hk => ?_
  simp only [encode, BitVec.getLsbD_append]
  interval_cases k <;> simp

theorem ldRVx (x : Nibble) : Statement (.ldRVx x) := fun _ => by
  refine accepts_of_bits fun k hk => ?_
  simp only [encode, BitVec.getLsbD_append]
  interval_cases k <;> simp

theorem ldVxR (x : Nibble) : Statement (.ldVxR x) := fun _ => by
  refine accepts_of_bits fun k hk => ?_
  simp only [encode, BitVec.getLsbD_append]
  interval_cases k <;> simp

theorem unrecognised (w : Word) : Statement (.unrecognised w) := by
  intro h
  simpa [Instr.wellFormed, Instr.row, encode] using h

end Sys2Proof.Laws.RowEncoding
end

