-- ==== Sys2Proof/Tests/Slice0.lean ====
section
/-! SUPPORT. Tests of the model: the WellFormed smoke, the decoding of a word of every row, one step of every instruction on the vectors
of 95_test_vectors.md (named in each docstring), and for each statement with hypotheses a state and operands that meet them. -/

namespace Sys2Proof.Tests

open Sys2Proof.Machine

/-! ### The start state -/

/-- No key down. -/
def noKeys : Keys := Vector.replicate 16 false

/-- The parameters of the test vectors (95_test_vectors, conventions): the spec's values, every quirk off, SPEED 1. The font bytes are
read by no test. -/
def params : Config.Params :=
  { defaultParams with quirks := ⟨false, false, false⟩, speed := 1, fontHi := Vector.replicate 160 0 }

/-- The post-load state of E7, with one sample of all keys up and one random byte 0xA7. -/
def base : State :=
  { State.reset with cfg := params, loaded := true, rpl := Vector.replicate 8 0, keySamples := [noKeys], randomBytes := [0xA7] }

/-- `base` with these registers. -/
def withRegs (l : List (Nibble × Byte)) (s : State) : State := l.foldl (fun s p => s.setReg p.1 p.2) s

/-- `s` with these bytes in memory. -/
def withBytes (l : List (Nat × Byte)) (s : State) : State := { s with mem := l.foldl (fun m p => m.put p.1 p.2) s.mem }

/-- `s` with a configuration changed. -/
def withCfg (f : Config.Params → Config.Params) (s : State) : State := { s with cfg := f s.cfg }

/-- One step of `s` with the word placed at PC goes on to a state where the test holds. -/
def stepTo (w : Nat) (s : State) (p : State → Bool) : Bool :=
  match step (s.withFetchWord 16 w) with
  | .next t => p t
  | _ => false

/-- One step of `s` with the word placed at PC raises this fault. -/
def stepFaults (w : Nat) (s : State) (f : Fault) : Bool :=
  match step (s.withFetchWord 16 w) with
  | .fault g => decide (g = f)
  | _ => false

/-! ### WellFormed -/

/-- 0x00E0 is a row of R94, so it is no unrecognised word (R95). -/
theorem test_wellFormed_refuses_recognised_word : (Instr.unrecognised 0x00E0).wellFormed = false := by decide

theorem test_wellFormed_accepts : (Instr.unrecognised 0x5121).wellFormed = true ∧ (Instr.drw 15 15 15).wellFormed = true := by decide

/-! ### Decoding: a word of every row, written out from R94 -/

theorem test_decode_group0 :
    [0x00E0, 0x00EE, 0x00FF, 0x00FE, 0x00FD, 0x00FB, 0x00FC, 0x00C5].map decodeWord =
      [.cls, .ret, .high, .low, .exit, .scr, .scl, .scd 5] := by decide

theorem test_decode_flow :
    [0x1204, 0x2208, 0x3A05, 0x4311, 0x5120, 0x9120].map decodeWord =
      [.jp 0x204, .call 0x208, .seImm 10 5, .sneImm 3 0x11, .seReg 1 2, .sneReg 1 2] := by decide

theorem test_decode_immediate : [0x6105, 0x71FF].map decodeWord = [.ldImm 1 5, .addImm 1 0xFF] := by decide

theorem test_decode_group8 :
    [0x8120, 0x8121, 0x8122, 0x8123, 0x8124, 0x8125, 0x8126, 0x8127, 0x812E].map decodeWord =
      [.ldReg 1 2, .orReg 1 2, .andReg 1 2, .xorReg 1 2, .addReg 1 2, .sub 1 2, .shr 1 2, .subn 1 2, .shl 1 2] := by decide

theorem test_decode_index_random_draw :
    [0xA210, 0xB3F0, 0xC10F, 0xDF01].map decodeWord = [.ldI 0x210, .jpV0 0x3F0, .rnd 1 0x0F, .drw 15 0 1] := by decide

theorem test_decode_keys : [0xE19E, 0xE1A1].map decodeWord = [.skp 1, .sknp 1] := by decide

theorem test_decode_groupF :
    [0xF107, 0xF30A, 0xF015, 0xF118, 0xF11E, 0xF129].map decodeWord =
      [.ldVxDt 1, .ldVxK 3, .ldDtVx 0, .ldStVx 1, .addI 1, .ldF 1] ∧
    [0xF130, 0xF133, 0xF255, 0xFF65, 0xF175, 0xF885].map decodeWord =
      [.ldHf 1, .ldB 1, .ldMemVx 2, .ldVxMem 15, .ldRVx 1, .ldVxR 8] := by decide

/-- One word of each range of R95. -/
theorem test_decode_unrecognised :
    [0x0000, 0x00BF, 0x00D0, 0x00EF, 0x01E0, 0x5121, 0x8128, 0x812F, 0x9121, 0xE19F, 0xF0FF].all
      (fun w => decide (decodeWord w = .unrecognised w)) = true := by decide

/-- The bytes of a table word are laid out high byte first (R75). -/
theorem test_decodeTableWord : decodeTableWord 16 0xD123 = some (.drw 1 2 3) ∧
    decode [0xD1, 0x23, 0x99] = .ok (.drw 1 2 3, [0x99]) ∧ decode [0xD1] = .error .truncated := ⟨rfl, rfl, rfl⟩

/-! ### The cycle and the driver -/

/-- T1. -/
theorem test_unrecognised_word_takes_one_cycle :
    stepTo 0x5121 { base with dt := 3 } (fun t => t.pc == 0x202 && t.dt == 2 && t.opcode == 0x5121) = true := by decide

/-- T8: the advance wraps to 0 before the jump. -/
theorem test_pc_wraps : stepTo 0x1234 { base with pc := 0xFFFE } (fun t => t.pc == 0x234) = true := by decide

/-- T9: PC + 1 is not wrapped. -/
theorem test_fetch_past_end_faults : stepFaults 0x1234 { base with pc := 0xFFFF } (.memOutOfRange 0x10000) = true := by decide

/-- M3. -/
theorem test_fetch_past_small_memory_faults :
    stepFaults 0x1234 (withCfg (fun c => { c with memSize := .kib4 }) { base with pc := 0xFFF }) (.memOutOfRange 0x1000) = true := by
  decide

/-- M2: an odd PC is legal. -/
theorem test_odd_pc : stepTo 0x6007 { base with pc := 0x201 } (fun t => t.reg 0 == 7 && t.pc == 0x203) = true := by decide

/-- A word placed where the core of `State.reset` fetches runs in the next step (A1). -/
theorem test_first_step_after_reset : stepTo 0x6105 State.reset (fun t => t.reg 1 == 5 && t.pc == 0x202) = true := by decide

/-- T4: an idle core does nothing. -/
theorem test_idle_core : step State.reset = .next State.reset := rfl

/-- R7: memory may also have 4096 bytes, and R122: a tick is 9 * SPEED cycles. P9: EXIT ends the tick, so V0 is not 9. -/
theorem test_exit_ends_tick :
    (match tick (withBytes [(0x200, 0x60), (0x201, 7), (0x202, 0), (0x203, 0xFD), (0x204, 0x60), (0x205, 9)]
        { base with keySamples := [noKeys, noKeys, noKeys] }) with
      | .next t => t.reg 0 == 0 && t.pc == 0x200 && !t.loaded && t.keySamples == [noKeys]
      | _ => false) = true := by decide

/-- E9. -/
theorem test_rom_size_limit :
    romFits .kib4 (List.replicate 3584 0) = true ∧ romFits .kib4 (List.replicate 3585 0) = false := by
  simp only [romFits, List.length_replicate]
  decide

/-! ### Group 0 -/

/-- Z1, and E6: one FRAME of the cleared framebuffer, in the same cycle. -/
theorem test_cls : stepTo 0x00E0 { base with mode := .high, fb := [5] }
    (fun t => t.fb == [] && !t.redraw && t.trace == [.frame [] .high]) = true := by decide

/-- Z3. -/
theorem test_ret : stepTo 0x00EE { base with sp := 1, stack := base.stack.set 0 0x204 }
    (fun t => t.sp == 0 && t.pc == 0x204 && t.stack[0] == 0x204) = true := by decide

/-- Z4. -/
theorem test_ret_underflow : stepFaults 0x00EE base (.stackUnderflow 0x202) = true := by decide

/-- Z5: no FRAME. -/
theorem test_high : stepTo 0x00FF { base with fb := [0] } (fun t => t.mode == .high && t.fb == [] && t.trace == []) = true := by decide

/-- Z6. -/
theorem test_high_again : stepTo 0x00FF { base with mode := .high, fb := [0] } (fun t => t.mode == .high && t.fb == [0]) = true := by
  decide

/-- E5. -/
theorem test_low : stepTo 0x00FE { base with mode := .high, fb := [7] } (fun t => t.mode == .low && t.fb == []) = true := by decide

/-- Z7. -/
theorem test_low_again : stepTo 0x00FE { base with fb := [0] } (fun t => t.mode == .low && t.fb == [0]) = true := by decide

/-- Z8. -/
theorem test_exit : stepTo 0x00FD { withRegs [(3, 9)] base with sp := 2, dt := 7 }
    (fun t => t.reg 3 == 0 && t.sp == 0 && t.dt == 0 && t.pc == 0x200 && !t.loaded && t.trace == []) = true := by decide

/-- Z9. -/
theorem test_scr : stepTo 0x00FB { base with fb := [5], dt := 3 } (fun t => t.pc == 0x202 && t.fb == [5] && t.dt == 2) = true := by decide

/-- Z9. -/
theorem test_scl : stepTo 0x00FC { base with fb := [5] } (fun t => t.pc == 0x202 && t.fb == [5] && t.trace == []) = true := by decide

/-- Z9. -/
theorem test_scd : stepTo 0x00C5 { base with fb := [5] } (fun t => t.pc == 0x202 && t.fb == [5] && t.trace == []) = true := by decide

/-! ### Jumps and skips -/

/-- J1. -/
theorem test_jp : stepTo 0x1204 { base with pc := 0x20A } (fun t => t.pc == 0x204) = true := by decide

/-- J4: the pushed address wrapped. -/
theorem test_call : stepTo 0x2300 { base with pc := 0xFFFE } (fun t => t.stack[0] == 0 && t.sp == 1 && t.pc == 0x300) = true := by decide

/-- J3. -/
theorem test_call_overflow : stepFaults 0x2200 { base with sp := 16 } (.stackOverflow 0x202) = true := by decide

/-- J5 and J6. -/
theorem test_seImm : stepTo 0x3005 (withRegs [(0, 5)] { base with pc := 0x208 }) (fun t => t.pc == 0x20C) = true ∧
    stepTo 0x3005 (withRegs [(0, 4)] { base with pc := 0x208 }) (fun t => t.pc == 0x20A) = true := by decide

/-- J14: the skip wraps. -/
theorem test_seImm_wraps : stepTo 0x3000 { base with pc := 0xFFFC } (fun t => t.pc == 0) = true := by decide

/-- J7 and J8. -/
theorem test_sneImm : stepTo 0x4311 (withRegs [(3, 0x10)] base) (fun t => t.pc == 0x204) = true ∧
    stepTo 0x4311 (withRegs [(3, 0x11)] base) (fun t => t.pc == 0x202) = true := by decide

/-- J9. -/
theorem test_seReg : stepTo 0x5120 (withRegs [(1, 7), (2, 7)] base) (fun t => t.pc == 0x204) = true := by decide

/-- J12 and J13. -/
theorem test_sneReg : stepTo 0x9120 (withRegs [(1, 7), (2, 8)] base) (fun t => t.pc == 0x204) = true ∧
    stepTo 0x9110 (withRegs [(1, 7)] base) (fun t => t.pc == 0x202) = true := by decide

/-! ### ALU -/

/-- A1. -/
theorem test_ldImm : stepTo 0x6105 base (fun t => t.reg 1 == 5) = true := by decide

/-- A2. -/
theorem test_addImm : stepTo 0x71FF (withRegs [(1, 0xFF), (15, 0x77)] base) (fun t => t.reg 1 == 0xFE && t.reg 15 == 0x77) = true := by
  decide

/-- A3. -/
theorem test_addImm_vf : stepTo 0x7F01 (withRegs [(15, 0xFF)] base) (fun t => t.reg 15 == 0) = true := by decide

/-- A4. -/
theorem test_ldReg : stepTo 0x8120 (withRegs [(2, 0x3C)] base) (fun t => t.reg 1 == 0x3C && t.reg 2 == 0x3C) = true := by decide

/-- A5. -/
theorem test_orReg : stepTo 0x8121 (withRegs [(1, 0xF0), (2, 0x0F), (15, 0x55)] base)
    (fun t => t.reg 1 == 0xFF && t.reg 15 == 0x55) = true := by decide

/-- A6. -/
theorem test_andReg : stepTo 0x8122 (withRegs [(1, 0xF0), (2, 0x3C)] base) (fun t => t.reg 1 == 0x30) = true := by decide

/-- A7. -/
theorem test_xorReg : stepTo 0x8123 (withRegs [(1, 0xF0), (2, 0x3C)] base) (fun t => t.reg 1 == 0xCC) = true := by decide

/-- E1. -/
theorem test_addReg : stepTo 0x8124 (withRegs [(1, 0xFF), (2, 1)] base) (fun t => t.reg 1 == 0 && t.reg 15 == 1) = true := by decide

/-- A9 and A10. -/
theorem test_addReg_vf : stepTo 0x8F24 (withRegs [(15, 0xFF), (2, 1)] base) (fun t => t.reg 15 == 1) = true ∧
    stepTo 0x8F24 (withCfg (fun c => { c with vfOrder := .resultLast }) (withRegs [(15, 0xFF), (2, 1)] base))
      (fun t => t.reg 15 == 0) = true := by decide

/-- A13. -/
theorem test_sub : stepTo 0x8125 (withRegs [(1, 3), (2, 5)] base) (fun t => t.reg 1 == 0xFE && t.reg 15 == 0) = true := by decide

/-- A14 and A15. -/
theorem test_sub_equal : stepTo 0x8125 (withRegs [(1, 7), (2, 7)] base) (fun t => t.reg 1 == 0 && t.reg 15 == 1) = true ∧
    stepTo 0x8125 (withCfg (fun c => { c with subFlag := .gt }) (withRegs [(1, 7), (2, 7)] base))
      (fun t => t.reg 1 == 0 && t.reg 15 == 0) = true := by decide

/-- A18. -/
theorem test_shr : stepTo 0x8106 (withRegs [(1, 0x81)] base) (fun t => t.reg 1 == 0x40 && t.reg 15 == 1) = true := by decide

/-- A19 and A20. -/
theorem test_shr_source : stepTo 0x8126 (withRegs [(1, 2), (2, 3)] base) (fun t => t.reg 1 == 1 && t.reg 15 == 0) = true ∧
    stepTo 0x8126 (withCfg (fun c => { c with quirks := ⟨true, false, false⟩ }) (withRegs [(1, 2), (2, 3)] base))
      (fun t => t.reg 1 == 1 && t.reg 15 == 1) = true := by decide

/-- A16. -/
theorem test_subn : stepTo 0x8127 (withRegs [(1, 3), (2, 5)] base) (fun t => t.reg 1 == 2 && t.reg 15 == 1) = true := by decide

/-- A17. -/
theorem test_subn_borrow : stepTo 0x8127 (withRegs [(1, 5), (2, 3)] base) (fun t => t.reg 1 == 0xFE && t.reg 15 == 0) = true := by decide

/-- A21. -/
theorem test_shl : stepTo 0x810E (withRegs [(1, 0x81)] base) (fun t => t.reg 1 == 2 && t.reg 15 == 1) = true := by decide

/-- A23 and A24. -/
theorem test_shl_vf : stepTo 0x8F0E (withRegs [(15, 0x81)] base) (fun t => t.reg 15 == 1) = true ∧
    stepTo 0x8F0E (withCfg (fun c => { c with vfOrder := .resultLast }) (withRegs [(15, 0x81)] base))
      (fun t => t.reg 15 == 2) = true := by decide

/-! ### Index, offset jump, random -/

/-- X2. -/
theorem test_ldI : stepTo 0xAFFF base (fun t => t.i == 0xFFF) = true := by decide

/-- J15 and J16. -/
theorem test_jpV0 : stepTo 0xB300 (withRegs [(0, 0x10), (3, 5)] base) (fun t => t.pc == 0x310) = true ∧
    stepTo 0xB300 (withCfg (fun c => { c with quirks := ⟨false, true, false⟩ }) (withRegs [(0, 0x10), (3, 5)] base))
      (fun t => t.pc == 0x305) = true := by decide

/-- J17. -/
theorem test_jpV0_beyond_memory :
    stepTo 0xBFFF (withCfg (fun c => { c with memSize := .kib4 }) (withRegs [(0, 0xFF)] base)) (fun t => t.pc == 0x10FE) = true := by
  decide

/-- X3. -/
theorem test_rnd : stepTo 0xC10F base (fun t => t.reg 1 == 7 && t.randomBytes == []) = true := by decide

/-! ### Draw -/

/-- D1: a sprite past the right edge wraps to the next row under `index_only`. -/
theorem test_drw_wraps : stepTo 0xD011 (withBytes [(0x300, 0xFF)] (withRegs [(0, 62)] { base with i := 0x300 }))
    (fun t => t.fb == [62, 63, 64, 65, 66, 67, 68, 69] && t.reg 15 == 0) = true := by decide

/-- D10. -/
theorem test_drw_collision : stepTo 0xD011 (withBytes [(0x300, 0xC0)] { base with i := 0x300, fb := [0] })
    (fun t => t.fb == [1] && t.reg 15 == 1 && t.trace == [.frame [1] .low]) = true := by decide

/-! ### Keys -/

/-- K1 and K2. -/
theorem test_skp : stepTo 0xE19E (withRegs [(1, 10)] { base with keySamples := [noKeys.set 10 true] }) (fun t => t.pc == 0x204) = true ∧
    stepTo 0xE19E (withRegs [(1, 10)] base) (fun t => t.pc == 0x202) = true := by decide

/-- R232: a key number above 15. -/
theorem test_skp_fault : stepFaults 0xE19E (withRegs [(1, 0x10)] base) (.keyIndexOutOfRange 0x10) = true := by decide

/-- K3 and K4. -/
theorem test_sknp : stepTo 0xE1A1 (withRegs [(1, 10)] base) (fun t => t.pc == 0x204) = true ∧
    stepTo 0xE1A1 (withRegs [(1, 10)] { base with keySamples := [noKeys.set 10 true] }) (fun t => t.pc == 0x202) = true := by decide

/-- K5. -/
theorem test_sknp_fault : stepFaults 0xE1A1 (withRegs [(1, 0x10)] base) (.keyIndexOutOfRange 0x10) = true := by decide

/-! ### Group F -/

/-- F1. -/
theorem test_ldVxDt : stepTo 0xF107 { base with dt := 4 } (fun t => t.reg 1 == 4 && t.dt == 3) = true := by decide

/-- F4. -/
theorem test_ldVxK_waits : stepTo 0xF30A base (fun t => t.pc == 0x200) = true := by decide

/-- F5. -/
theorem test_ldVxK : stepTo 0xF30A { base with keySamples := [(noKeys.set 3 true).set 7 true] }
    (fun t => t.reg 3 == 3 && t.pc == 0x202) = true := by decide

/-- F2. -/
theorem test_ldDtVx : stepTo 0xF015 (withRegs [(0, 5)] base) (fun t => t.dt == 4) = true := by decide

/-- T5 and T6. -/
theorem test_ldStVx : stepTo 0xF118 (withRegs [(1, 1)] base) (fun t => t.st == 0 && t.trace == [.beep]) = true ∧
    stepTo 0xF118 (withRegs [(1, 2)] base) (fun t => t.st == 1 && t.trace == []) = true := by decide

/-- T7: a write of 0 does not beep. -/
theorem test_ldStVx_zero : stepTo 0xF118 { base with st := 5 } (fun t => t.st == 0 && t.trace == []) = true := by decide

/-- F7. -/
theorem test_addI_wraps : stepTo 0xF11E (withRegs [(1, 2), (15, 7)] { base with i := 0xFFFF })
    (fun t => t.i == 1 && t.reg 15 == 7) = true := by decide

/-- F10. -/
theorem test_addI_overflow : stepTo 0xF11E (withCfg (fun c => { c with memSize := .kib4, fx1eVf := .overflow })
    (withRegs [(1, 0x10)] { base with i := 0xFF8 })) (fun t => t.i == 0x1008 && t.reg 15 == 1) = true := by decide

/-- F14. -/
theorem test_ldF : stepTo 0xF129 (withRegs [(1, 0xFF)] base) (fun t => t.i == 1275) = true := by decide

/-- F16. -/
theorem test_ldHf : stepTo 0xF130 (withRegs [(1, 15)] base) (fun t => t.i == 230) = true := by decide

/-- F17. -/
theorem test_ldB : stepTo 0xF133 (withRegs [(1, 255)] { base with i := 0x300 })
    (fun t => t.byte 0x300 == 2 && t.byte 0x301 == 5 && t.byte 0x302 == 5 && t.i == 0x300) = true := by decide

/-- F18. -/
theorem test_ldB_fault : stepFaults 0xF133 (withRegs [(1, 1)] { base with i := 0xFFFE }) (.memOutOfRange 0x10000) = true := by decide

/-- F20. -/
theorem test_ldMemVx : stepTo 0xF255 (withCfg (fun c => { c with quirks := ⟨false, false, true⟩ })
    (withRegs [(0, 1), (1, 2), (2, 3)] { base with i := 0x400 }))
    (fun t => t.byte 0x400 == 1 && t.byte 0x401 == 2 && t.byte 0x402 == 3 && t.i == 0x403) = true := by decide

/-- F21. -/
theorem test_ldMemVx_fault : stepFaults 0xF255 { base with i := 0xFFFE } (.memOutOfRange 0x10000) = true := by decide

/-- F23. -/
theorem test_ldVxMem : stepTo 0xF265 (withBytes [(0x300, 2), (0x301, 5), (0x302, 4)] { base with i := 0x300 })
    (fun t => t.reg 0 == 2 && t.reg 1 == 5 && t.reg 2 == 4 && t.i == 0x300) = true := by decide

/-- F24, the save. -/
theorem test_ldRVx : stepTo 0xF175 (withRegs [(0, 0x11), (1, 0x22), (2, 0x33)] base)
    (fun t => t.rpl[0] == 0x11 && t.rpl[1] == 0x22 && t.rpl[2] == 0) = true := by decide

/-- F25. -/
theorem test_ldRVx_fault : stepFaults 0xF875 base (.rplIndexOutOfRange 8) = true := by decide

/-- F24, the restore. -/
theorem test_ldVxR : stepTo 0xF185 { base with rpl := (base.rpl.set 0 0x11).set 1 0x22 }
    (fun t => t.reg 0 == 0x11 && t.reg 1 == 0x22 && t.reg 2 == 0) = true := by decide

/-- F26. -/
theorem test_ldVxR_fault : stepFaults 0xF885 base (.rplIndexOutOfRange 8) = true := by decide

/-! ### The hypotheses of the statements can be met

Each theorem is named after its statement and gives a state and operands that meet its hypotheses, each clause at the ends of its range. -/

/-- A running state with this word at PC. -/
def withWord (w : Nat) (s : State) : State := s.withFetchWord 16 w

/-- A state with 4096 bytes of memory and this I. -/
def smallAt (i : Word) : State := withCfg (fun c => { c with memSize := .kib4 }) { base with i := i }

/-- Every encoding line is met by a word: here the first and the last one of each. -/
theorem witness_EncodedAs :
    [((0xFFFF, 0x00E0), 0x00E0, 0x00E0), ((0xFFF0, 0x00C0), 0x00C0, 0x00CF), ((0xF000, 0x1000), 0x1000, 0x1FFF),
      ((0xF00F, 0x5000), 0x5000, 0x5FF0), ((0xF00F, 0x800E), 0x800E, 0x8FFE), ((0xF0FF, 0xE09E), 0xE09E, 0xEF9E),
      ((0xF0FF, 0xF085), 0xF085, 0xFF85)].all
      (fun r : (Word × Word) × Word × Word => (r.2.1 &&& r.1.1) == r.1.2 && (r.2.2 &&& r.1.1) == r.1.2) = true := by decide

/-- The same for the encoding lines that no test above decodes at both ends. -/
theorem witness_EncodedAs_values :
    [(0xFFFF, 0x00EE), (0xFFFF, 0x00FF), (0xFFFF, 0x00FE), (0xFFFF, 0x00FD), (0xFFFF, 0x00FB), (0xFFFF, 0x00FC), (0xF000, 0x2000),
      (0xF000, 0x3000), (0xF000, 0x4000), (0xF00F, 0x9000), (0xF000, 0x6000), (0xF000, 0x7000), (0xF00F, 0x8000), (0xF00F, 0x8001),
      (0xF00F, 0x8002), (0xF00F, 0x8003), (0xF00F, 0x8004), (0xF00F, 0x8005), (0xF00F, 0x8006), (0xF00F, 0x8007)].all
      (fun r : Word × Word => (r.2 &&& r.1) == r.2) = true ∧
    [(0xF000, 0xA000), (0xF000, 0xB000), (0xF000, 0xC000), (0xF000, 0xD000), (0xF0FF, 0xE0A1), (0xF0FF, 0xF007), (0xF0FF, 0xF00A),
      (0xF0FF, 0xF015), (0xF0FF, 0xF018), (0xF0FF, 0xF01E), (0xF0FF, 0xF029), (0xF0FF, 0xF030), (0xF0FF, 0xF033), (0xF0FF, 0xF055),
      (0xF0FF, 0xF065), (0xF0FF, 0xF075)].all
      (fun r : Word × Word => (r.2 &&& r.1) == r.2) = true := by decide

theorem witness_StepKeepsCoreInvariant : (withWord 0x00E0 base).Inv ∧ ∃ t, step (withWord 0x00E0 base) = .next t :=
  ⟨by decide, _, rfl⟩

theorem witness_DecodeGivesBackEncodedInstruction :
    (Instr.drw 15 0 15).wellFormed = true ∧ (Instr.unrecognised 0xFFFF).wellFormed = true := by decide

theorem witness_DecodeFollowsOpcodeMap : ⟨0xF000, 0xD000⟩ ∈ opcodeMap ∧ recognised 0x5121 = false := by decide

/-- At the last PC whose two bytes lie in memory, and at 0x200. -/
theorem witness_StepRunsDecodedInstruction :
    (withWord 0x1234 { base with pc := 0xFFFE }).loaded = true ∧ (withWord 0x1234 { base with pc := 0xFFFE }).fault = none ∧
    (withWord 0x1234 { base with pc := 0xFFFE }).pc.toNat + 1 < (withWord 0x1234 { base with pc := 0xFFFE }).cfg.memSize.bytes ∧
    decode [(withWord 0x1234 { base with pc := 0xFFFE }).byte 0xFFFE, (withWord 0x1234 { base with pc := 0xFFFE }).byte 0xFFFF] =
      .ok (.jp 0x234, []) := ⟨rfl, rfl, by decide, rfl⟩

theorem witness_NoCycleWhenIdleOrFaulted :
    State.reset.fault = none ∧ State.reset.loaded = false ∧
    State.fault { base with fault := some (.stackUnderflow 0x202) } = some (.stackUnderflow 0x202) := ⟨rfl, rfl, rfl⟩

/-- The first byte inside and the second outside, and both outside. -/
theorem witness_FetchOutsideMemoryFaults :
    State.loaded { smallAt 0 with pc := 0xFFF } = true ∧ State.fault { smallAt 0 with pc := 0xFFF } = none ∧
    (smallAt 0).cfg.memSize.bytes ≤ (0xFFF : Word).toNat + 1 ∧ ¬ (smallAt 0).cfg.memSize.bytes ≤ (0xFFF : Word).toNat ∧
    (smallAt 0).cfg.memSize.bytes ≤ (0x1000 : Word).toNat := ⟨rfl, rfl, by decide, by decide, by decide⟩

theorem witness_FetchSeesStoredBytesBigEndian :
    ∃ t u, memWrite base base.pc.toNat 0x12 = .ok t ∧ memWrite t (base.pc.toNat + 1) 0x34 = .ok u := ⟨_, _, rfl, rfl⟩

/-- A cycle of another instruction, one of 00FD, and one with no sample supplied. -/
theorem witness_CycleTakesNextKeySample :
    (∀ w, (withWord w base).loaded = true ∧ (withWord w base).fault = none) ∧ fetch (withWord 0x6105 base) = .ok 0x6105 ∧
    (∃ t, step (withWord 0x6105 base) = .next t) ∧ fetch (withWord 0x00FD base) = .ok 0x00FD ∧
    (∃ t, step (withWord 0x00FD base) = .next t) ∧ State.keySamples { base with keySamples := [] } = [] ∧
    fetch (withWord 0x6105 { base with keySamples := [] }) = .ok 0x6105 ∧
    ∃ t, step (withWord 0x6105 { base with keySamples := [] }) = .next t :=
  ⟨fun _ => ⟨rfl, rfl⟩, rfl, ⟨_, rfl⟩, rfl, ⟨_, rfl⟩, rfl, rfl, _, rfl⟩

/-- ST at 1, and a draw that leaves a redraw pending. -/
theorem witness_TimerStepAfterEveryExecutedCycle :
    (∀ w, (withWord w base).loaded = true ∧ (withWord w base).fault = none) ∧
    (withWord 0xF118 (withRegs [(1, 1)] base)).loaded = true ∧ (withWord 0xF118 (withRegs [(1, 1)] base)).fault = none ∧
    fetch (withWord 0xF118 (withRegs [(1, 1)] base)) = .ok 0xF118 ∧
    (∃ t, exec (decodeWord 0xF118) ((withWord 0xF118 (withRegs [(1, 1)] base)).sampleKeys.latch 0xF118) = .next t) ∧
    fetch (withWord 0x00E0 base) = .ok 0x00E0 ∧
    ∃ t, exec (decodeWord 0x00E0) ((withWord 0x00E0 base).sampleKeys.latch 0x00E0) = .next t :=
  ⟨fun _ => ⟨rfl, rfl⟩, rfl, rfl, rfl, ⟨_, rfl⟩, rfl, _, rfl⟩

/-- The last address inside, and the first outside. -/
theorem witness_MemoryReadsLastWrite : 0xFFFF < base.cfg.memSize.bytes ∧ base.cfg.memSize.bytes ≤ 0x10000 := by decide

theorem witness_UnimplementedAndUnrecognisedWordsDoNothing :
    (∀ w, (withWord w base).loaded = true ∧ (withWord w base).fault = none) ∧ fetch (withWord 0x00C0 base) = .ok 0x00C0 ∧
    (0x00C0 : Word) &&& 0xFFF0 = 0x00C0 ∧ fetch (withWord 0x00FB base) = .ok 0x00FB ∧
    fetch (withWord 0x00FC base) = .ok 0x00FC ∧ fetch (withWord 0x5121 base) = .ok 0x5121 ∧ recognised 0x5121 = false :=
  ⟨fun _ => ⟨rfl, rfl⟩, rfl, by decide, rfl, rfl, rfl, by decide⟩

/-- SP at 0, 1 and 16. -/
theorem witness_RetPopsReturnAddress :
    base.sp = 0 ∧ (State.sp { base with sp := 1 }).toNat = (0 : Fin 16).val + 1 ∧
    (State.sp { base with sp := 16 }).toNat = (15 : Fin 16).val + 1 := by decide

theorem witness_ModeSwitchClearsFramebuffer : base.mode = .low ∧ State.mode { base with mode := .high } = .high := ⟨rfl, rfl⟩

/-- SP at 16, 0 and 15. -/
theorem witness_CallPushesReturnAddress :
    State.sp { base with sp := 16 } = 16 ∧ base.sp.toNat = (0 : Fin 16).val ∧
    (State.sp { base with sp := 15 }).toNat = (15 : Fin 16).val := by decide

theorem witness_ReturnUndoesCall : ∃ t, exec (.call 0x300) { base with sp := 15 } = .next t := ⟨_, rfl⟩

theorem witness_IllegalStackPointerIsRefused : 16 < (State.sp { base with sp := 17 }).toNat := by decide

theorem witness_SkipComparesRegisters :
    (0x5121 : Word) &&& 0xF000 = 0x5000 ∧ fieldN 0x5121 ≠ 0 ∧ (0x912F : Word) &&& 0xF000 = 0x9000 ∧ fieldN 0x912F ≠ 0 := by decide

/-- Another destination than VF, and VF under each order. -/
theorem witness_AddSetsCarry :
    (14 : Nibble) ≠ 15 ∧ base.cfg.vfOrder = .flagLast ∧
    (withCfg (fun c => { c with vfOrder := .resultLast }) base).cfg.vfOrder = .resultLast := by decide

theorem witness_SubtractSetsNoBorrow :
    (0 : Nibble) ≠ 15 ∧ base.cfg.vfOrder = .flagLast ∧ base.cfg.subFlag = .ge ∧
    (withCfg (fun c => { c with subFlag := .gt, vfOrder := .resultLast }) base).cfg.subFlag = .gt := by decide

theorem witness_ShiftSetsShiftedBit :
    (3 : Byte) = (if base.cfg.quirks.shiftVy then (withRegs [(2, 3)] base).reg 2 else (withRegs [(1, 3)] base).reg 1) ∧
    (withCfg (fun c => { c with quirks := ⟨true, false, false⟩ }) base).cfg.quirks.shiftVy = true := by decide

theorem witness_RandomByteIsMasked : State.randomBytes { base with randomBytes := [] } = [] ∧ base.randomBytes ≠ [] := by decide

/-- A sprite that ends with memory, the wide form likewise, and N = 0 in Low mode. A cell that is covered and lit. -/
theorem witness_DrawFlipsCoveredCells :
    (0xFFFF + (if WideForm base 1 then 32 else (1 : Nibble).toNat) ≤ base.cfg.memSize.bytes) ∧
    (0xFFE0 + (if WideForm { base with mode := .high } 0 then 32 else (0 : Nibble).toNat) ≤ base.cfg.memSize.bytes) ∧
    ((0 : Nibble) = 0 ∧ base.mode = .low) ∧
    SpriteCovers (withBytes [(0x300, 0x80)] { base with i := 0x300, fb := [0] }) 0 0 1 0 ∧
    Framebuffer.lit (withBytes [(0x300, 0x80)] { base with i := 0x300, fb := [0] }).fb 0 = true :=
  ⟨by decide, by decide, by decide, ⟨0, 0, by decide, by decide, (by decide : 0 < 2048)⟩, by decide⟩

/-- One row too many, the wide form likewise. -/
theorem witness_DrawOutsideMemoryFaults :
    (2 : Nibble) ≠ 0 ∧ base.cfg.memSize.bytes < 0xFFFF + (if WideForm base 2 then 32 else (2 : Nibble).toNat) ∧
    base.cfg.memSize.bytes < 0xFFE1 + (if WideForm { base with mode := .high } 0 then 32 else (0 : Nibble).toNat) := by decide

/-- The keys 0 and 15, and the number 16. -/
theorem witness_KeyTestsSkip :
    (base.reg 1).toNat = (0 : Fin 16).val ∧ ((withRegs [(1, 15)] base).reg 1).toNat = (15 : Fin 16).val ∧
    15 < ((withRegs [(1, 16)] base).reg 1).toNat := by decide

/-- Only key 15 down, key 0 down, and none. -/
theorem witness_KeyWaitTakesLowestKey :
    ((noKeys.set 15 true)[15] = true ∧ ∀ j : Fin 16, j < 15 → (noKeys.set 15 true)[j] = false) ∧ (noKeys.set 0 true)[0] = true ∧
    ∀ k : Fin 16, base.keys[k] = false := by decide

theorem witness_KeyWaitReexecutesWhileNoKeyIsDown :
    (withWord 0xF30A base).loaded = true ∧ (withWord 0xF30A base).fault = none ∧
    fetch (withWord 0xF30A base) = .ok 0xF30A ∧ (0xF30A : Word) &&& 0xF0FF = 0xF00A ∧
    ∀ k : Fin 16, ((withWord 0xF30A base).keySamples.headD (Config.keySample 0))[k] = false :=
  ⟨rfl, rfl, rfl, by decide, by decide⟩

theorem witness_AddIndexWrapsAt16Bits :
    base.cfg.fx1eVf = .unaffected ∧ (withCfg (fun c => { c with fx1eVf := .overflow }) base).cfg.fx1eVf = .overflow := ⟨rfl, rfl⟩

/-- The last I that fits, and the first that does not, for both memory sizes. -/
theorem witness_BcdStoresDigits :
    (smallAt 0xFFD).i.toNat + 2 < (smallAt 0xFFD).cfg.memSize.bytes ∧
    (smallAt 0xFFE).cfg.memSize.bytes ≤ (smallAt 0xFFE).i.toNat + 2 ∧
    (0xFFFD : Word).toNat + 2 < base.cfg.memSize.bytes ∧ base.cfg.memSize.bytes ≤ (0xFFFE : Word).toNat + 2 := by decide

theorem witness_BlockStoreCopiesRegisters :
    (smallAt 0xFF0).i.toNat + (15 : Nibble).toNat < (smallAt 0xFF0).cfg.memSize.bytes ∧
    (smallAt 0xFF1).cfg.memSize.bytes ≤ (smallAt 0xFF1).i.toNat + (15 : Nibble).toNat ∧
    (0xFFFF : Word).toNat + (0 : Nibble).toNat < base.cfg.memSize.bytes := by decide

theorem witness_BlockLoadFillsRegisters :
    (smallAt 0xFFF).i.toNat + (0 : Nibble).toNat < (smallAt 0xFFF).cfg.memSize.bytes ∧
    (smallAt 0x1000).cfg.memSize.bytes ≤ (smallAt 0x1000).i.toNat + (0 : Nibble).toNat ∧
    base.cfg.memSize.bytes ≤ (0xFFF1 : Word).toNat + (15 : Nibble).toNat := by decide

/-- X = 0, 7 and 8. -/
theorem witness_RplSaveAndRestore : (0 : Nibble).toNat ≤ 7 ∧ (7 : Nibble).toNat ≤ 7 ∧ 7 < (8 : Nibble).toNat := by decide

theorem witness_OnlyHostWritesChangeQuirks : ∃ t, step (withWord 0x8126 base) = .next t := ⟨_, rfl⟩

theorem witness_OnlyModeInstructionsChangeMode :
    (∃ t, exec .high base = .next t) ∧ (∃ t, exec .low base = .next t) ∧ (∃ t, exec .exit base = .next t) ∧
    ∃ t, exec .cls base = .next t := ⟨⟨_, rfl⟩, ⟨_, rfl⟩, ⟨_, rfl⟩, _, rfl⟩

/-- An instruction that goes on, and one that faults. -/
theorem witness_OnlyCallAndReturnUseStack :
    (∃ t, exec (.skp 1) base = .next t) ∧ exec (.skp 1) (withRegs [(1, 16)] base) = .fault (.keyIndexOutOfRange 16) :=
  ⟨⟨_, rfl⟩, rfl⟩

theorem witness_OnlyStoresChangeMemory : ∃ t, exec (.drw 0 1 0) base = .next t := ⟨_, rfl⟩

theorem witness_OnlySaveWritesRplAndNoneWritesKeys :
    (∃ t, exec (.ldRVx 7) base = .next t) ∧ ∃ t, exec (.ldVxR 7) base = .next t := ⟨⟨_, rfl⟩, _, rfl⟩

/-- Each kind of fault. -/
theorem witness_FaultsComeFromTheirInstructions :
    exec (.ldB 1) { base with i := 0xFFFF } = .fault (.memOutOfRange 0x10000) ∧
    exec (.call 0) { base with sp := 16 } = .fault (.stackOverflow 0x200) ∧ exec .ret base = .fault (.stackUnderflow 0x200) ∧
    exec (.sknp 1) (withRegs [(1, 255)] base) = .fault (.keyIndexOutOfRange 255) ∧
    exec (.ldVxR 15) base = .fault (.rplIndexOutOfRange 15) := ⟨rfl, rfl, rfl, rfl, rfl⟩

theorem witness_NoStepIsRefusedUnderInvariant : base.Inv ∧ State.Inv { base with sp := 16, fb := [2047] } := by decide

/-- The largest image that fits, the smallest that does not, and a trace of proper frames. -/
theorem witness_LoadGameCopiesImage :
    (List.replicate 3584 (0x60 : Byte)).length + 0x200 ≤ (smallAt 0).cfg.memSize.bytes ∧
    (smallAt 0).cfg.memSize.bytes < (List.replicate 3585 (0x60 : Byte)).length + 0x200 ∧
    [Event.frame [0, 8191] .high, .beep].all Event.wf = true := by
  simp only [List.length_replicate]
  decide

theorem witness_LoadedCoreStartsClear : ∃ t, loadGame [0x60, 0x05] base = (.ok, t) :=
  ⟨_, if_pos (by decide)⟩

theorem witness_TickOfStoppedCoreDoesNothing :
    State.reset.loaded = false ∧ State.fault { base with fault := some (.stackUnderflow 0x202) } ≠ none := by decide

/-- A cycle that goes on, one that faults, one that is refused, an idle and a faulted core, and a loop that ends running or idle. -/
theorem witness_DriverLoopComposes :
    (∀ w s, (withWord w s).loaded = true ∧ (withWord w s).fault = none) ∧
    (∃ u, step (withWord 0x6105 base) = .next u) ∧ step (withWord 0x00EE base) = .fault (.stackUnderflow 0x202) ∧
    step (withWord 0x00EE { base with sp := 17 }) = .refused (.illegalStackPointer 17) ∧ State.reset.loaded = false ∧
    State.fault { base with fault := some (.stackUnderflow 0x202) } ≠ none ∧
    (∃ t, runCycles 1 (withWord 0x6105 base) = .next t) ∧ ∃ t, runCycles 1 (withWord 0x00FD base) = .next t ∧ t.loaded = false :=
  ⟨fun _ _ => ⟨rfl, rfl⟩, ⟨_, rfl⟩, rfl, rfl, rfl, by decide, ⟨_, rfl⟩, _, rfl, rfl⟩

theorem witness_FaultingTickRecordsFault :
    (withWord 0x00EE base).loaded = true ∧ (withWord 0x00EE base).fault = none ∧ 0 < (withWord 0x00EE base).cfg.speed ∧
    step (withWord 0x00EE base) = .fault (.stackUnderflow 0x202) := ⟨rfl, rfl, by decide, rfl⟩

end Sys2Proof.Tests
end

namespace Sys2Proof

/-! ## What an instruction may write -/

/-- The parts an instruction may write (41_group0 to 47_fx). -/
def Instr.writes : Instr → List Machine.Part
  | .scr | .scl | .scd _ | .unrecognised _ => []
  | .cls => [.fb, .redraw]
  | .high | .low => [.mode, .fb]
  | .exit => [.v, .i, .pc, .sp, .stack, .dt, .st, .mode, .fb, .redraw, .rpl, .keys, .opcode, .mem, .loaded, .initDraw]
  | .call _ => [.stack, .sp, .pc]
  | .ret => [.sp, .pc]
  | .jp _ | .jpV0 _ | .seImm _ _ | .sneImm _ _ | .seReg _ _ | .sneReg _ _ | .skp _ | .sknp _ => [.pc]
  | .ldImm _ _ | .addImm _ _ | .ldReg _ _ | .orReg _ _ | .andReg _ _ | .xorReg _ _ | .addReg _ _ | .sub _ _ | .shr _ _
  | .subn _ _ | .shl _ _ | .ldVxDt _ | .ldVxR _ => [.v]
  | .ldI _ | .ldF _ | .ldHf _ => [.i]
  | .rnd _ _ => [.v, .randomInput]
  | .drw _ _ _ => [.v, .fb, .redraw]
  | .ldVxK _ => [.v, .pc]
  | .ldDtVx _ => [.dt]
  | .ldStVx _ => [.st]
  | .addI _ | .ldVxMem _ => [.v, .i]
  | .ldB _ => [.mem]
  | .ldMemVx _ => [.mem, .i]
  | .ldRVx _ => [.rpl]

/-! The parts no instruction writes. -/

@[simp] theorem Instr.cfg_notMem_writes (i : Instr) : .cfg ∉ i.writes := by
  cases i <;> simp [Instr.writes]

@[simp] theorem Instr.trace_notMem_writes (i : Instr) : .trace ∉ i.writes := by
  cases i <;> simp [Instr.writes]

@[simp] theorem Instr.keyInput_notMem_writes (i : Instr) : .keyInput ∉ i.writes := by
  cases i <;> simp [Instr.writes]

/-! The instructions that may write each of the parts few of them write. -/

@[simp] theorem Instr.keys_mem_writes {i : Instr} : .keys ∈ i.writes ↔ i = .exit := by
  cases i <;> simp [Instr.writes]

@[simp] theorem Instr.opcode_mem_writes {i : Instr} : .opcode ∈ i.writes ↔ i = .exit := by
  cases i <;> simp [Instr.writes]

@[simp] theorem Instr.initDraw_mem_writes {i : Instr} : .initDraw ∈ i.writes ↔ i = .exit := by
  cases i <;> simp [Instr.writes]

@[simp] theorem Instr.rpl_mem_writes {i : Instr} : .rpl ∈ i.writes ↔ i = .exit ∨ ∃ x, i = .ldRVx x := by
  cases i <;> simp [Instr.writes]

@[simp] theorem Instr.st_mem_writes {i : Instr} : .st ∈ i.writes ↔ i = .exit ∨ ∃ x, i = .ldStVx x := by
  cases i <;> simp [Instr.writes]

@[simp] theorem Instr.stack_mem_writes {i : Instr} : .stack ∈ i.writes ↔ i = .exit ∨ ∃ nnn, i = .call nnn := by
  cases i <;> simp [Instr.writes]

@[simp] theorem Instr.sp_mem_writes {i : Instr} : .sp ∈ i.writes ↔ i = .exit ∨ i = .ret ∨ ∃ nnn, i = .call nnn := by
  cases i <;> simp [Instr.writes]

@[simp] theorem Instr.mode_mem_writes {i : Instr} : .mode ∈ i.writes ↔ i = .exit ∨ i = .high ∨ i = .low := by
  cases i <;> simp [Instr.writes]

@[simp] theorem Instr.mem_mem_writes {i : Instr} :
    .mem ∈ i.writes ↔ i = .exit ∨ (∃ x, i = .ldB x) ∨ ∃ x, i = .ldMemVx x := by
  cases i <;> simp [Instr.writes]

@[simp] theorem Instr.fb_mem_writes {i : Instr} :
    .fb ∈ i.writes ↔ i = .exit ∨ i = .cls ∨ i = .high ∨ i = .low ∨ ∃ x y n, i = .drw x y n := by
  cases i <;> simp [Instr.writes]

end Sys2Proof

namespace Sys2Proof.Machine

/-! ## What an execute step leaves unchanged -/

/-- `t` holds in every field what `s` holds, but for the parts listed. -/
structure Unchanged (parts : List Part) (s t : State) : Prop where
  v : .v ∉ parts → t.v = s.v
  i : .i ∉ parts → t.i = s.i
  pc : .pc ∉ parts → t.pc = s.pc
  sp : .sp ∉ parts → t.sp = s.sp
  stack : .stack ∉ parts → t.stack = s.stack
  dt : .dt ∉ parts → t.dt = s.dt
  st : .st ∉ parts → t.st = s.st
  mode : .mode ∉ parts → t.mode = s.mode
  fb : .fb ∉ parts → t.fb = s.fb
  redraw : .redraw ∉ parts → t.redraw = s.redraw
  rpl : .rpl ∉ parts → t.rpl = s.rpl
  keys : .keys ∉ parts → t.keys = s.keys
  opcode : .opcode ∉ parts → t.opcode = s.opcode
  mem : .mem ∉ parts → t.mem = s.mem
  loaded : .loaded ∉ parts → t.loaded = s.loaded
  fault : .fault ∉ parts → t.fault = s.fault
  cfg : .cfg ∉ parts → t.cfg = s.cfg
  trace : .trace ∉ parts → t.trace = s.trace
  keySamples : .keyInput ∉ parts → t.keySamples = s.keySamples
  keyDraw : .keyInput ∉ parts → t.keyDraw = s.keyDraw
  randomBytes : .randomInput ∉ parts → t.randomBytes = s.randomBytes
  randomDraw : .randomInput ∉ parts → t.randomDraw = s.randomDraw
  initDraw : .initDraw ∉ parts → t.initDraw = s.initDraw

theorem Unchanged.refl (parts : List Part) (s : State) : Unchanged parts s s := by
  constructor <;> exact fun _ => rfl

theorem State.setReg_unchanged (s : State) (x : Nibble) (b : Byte) : Unchanged [.v] s (s.setReg x b) := by
  constructor <;> simp

theorem State.writeRF_unchanged (s : State) (x : Nibble) (r : Byte) (f : Bool) : Unchanged [.v] s (s.writeRF x r f) := by
  constructor <;> simp

theorem State.skipIf_unchanged (s : State) (c : Bool) : Unchanged [.pc] s (s.skipIf c) := by
  constructor <;> simp

theorem State.setMode_unchanged (s : State) (m : Mode) : Unchanged [.mode, .fb] s (s.setMode m) := by
  constructor <;> simp

theorem State.writeI_unchanged (s : State) (a : Word) : Unchanged [.i] s { s with i := a } := by
  constructor <;> simp

theorem State.writePc_unchanged (s : State) (a : Word) : Unchanged [.pc] s { s with pc := a } := by
  constructor <;> simp

theorem State.writeDt_unchanged (s : State) (b : Byte) : Unchanged [.dt] s { s with dt := b } := by
  constructor <;> simp

theorem State.writeSt_unchanged (s : State) (b : Byte) : Unchanged [.st] s { s with st := b } := by
  constructor <;> simp

theorem State.clearScreen_unchanged (s : State) : Unchanged [.fb, .redraw] s s.clearScreen := by
  constructor <;> simp

/-- All that an instruction can do: write its parts, fault, or, with SP above 16, be refused (log entry 12). -/
def Effect (parts : List Part) (s : State) : Host.Outcome State Fault Refusal → Prop
  | .next t => Unchanged parts s t
  | .fault _ => True
  | .refused _ => 16 < s.sp.toNat

theorem State.pushAndJump_effect (s : State) (target : Word) : Effect [.stack, .sp, .pc] s (s.pushAndJump target) := by
  obtain ⟨-, h⟩ | ⟨_, h⟩ | ⟨hsp, h⟩ := s.pushAndJump_cases target
  · rw [h]; trivial
  · rw [h]; constructor <;> simp
  · rw [h]; exact hsp

theorem State.popPc_effect (s : State) : Effect [.sp, .pc] s s.popPc := by
  obtain ⟨-, h⟩ | ⟨_, -, -, h⟩ | ⟨hsp, h⟩ := s.popPc_cases
  · rw [h]; trivial
  · rw [h]; constructor <;> simp
  · rw [h]; exact hsp

theorem execExit_effect (s : State) : Effect (Instr.writes .exit) s (execExit s) := by
  constructor <;> simp [Instr.writes]

theorem execSkp_effect (x : Nibble) (s : State) : Effect [.pc] s (execSkp x s) := by
  unfold execSkp
  split
  · trivial
  · exact s.skipIf_unchanged _

theorem execSknp_effect (x : Nibble) (s : State) : Effect [.pc] s (execSknp x s) := by
  unfold execSknp
  split
  · trivial
  · exact s.skipIf_unchanged _

theorem execDrw_effect (x y n : Nibble) (s : State) : Effect [.v, .fb, .redraw] s (execDrw x y n s) := by
  unfold execDrw
  split
  · trivial
  · constructor <;> simp

theorem execRnd_effect (x : Nibble) (nn : Byte) (s : State) : Effect [.v, .randomInput] s (execRnd x nn s) := by
  constructor <;> simp

theorem execLdVxK_effect (x : Nibble) (s : State) : Effect [.v, .pc] s (execLdVxK x s) := by
  unfold execLdVxK
  split <;> constructor <;> simp

theorem execAddI_effect (x : Nibble) (s : State) : Effect [.v, .i] s (execAddI x s) := by
  unfold execAddI
  cases s.cfg.fx1eVf <;> constructor <;> simp

theorem execLdB_effect (x : Nibble) (s : State) : Effect [.mem] s (execLdB x s) := by
  obtain ⟨-, h⟩ | ⟨-, h⟩ := storeBytes_cases s s.index (decimalDigits (s.reg x))
  · rw [execLdB, h]; constructor <;> simp
  · rw [execLdB, h]; trivial

theorem execLdMemVx_effect (x : Nibble) (s : State) : Effect [.mem, .i] s (execLdMemVx x s) := by
  obtain ⟨-, h⟩ | ⟨-, h⟩ := storeBytes_cases s s.index (s.regsUpTo x)
  · rw [execLdMemVx, h]; constructor <;> simp
  · rw [execLdMemVx, h]; trivial

theorem execLdVxMem_effect (x : Nibble) (s : State) : Effect [.v, .i] s (execLdVxMem x s) := by
  obtain ⟨-, h⟩ | ⟨-, h⟩ := loadBytes_cases s s.index (x.toNat + 1)
  · rw [execLdVxMem, h]; constructor <;> simp
  · rw [execLdVxMem, h]; trivial

theorem execLdRVx_effect (x : Nibble) (s : State) : Effect [.rpl] s (execLdRVx x s) := by
  unfold execLdRVx
  split
  · constructor <;> simp
  · trivial

theorem execLdVxR_effect (x : Nibble) (s : State) : Effect [.v] s (execLdVxR x s) := by
  unfold execLdVxR
  split
  · constructor <;> simp
  · trivial

/-- The execute step of every instruction (R113), one line for each row of the opcode map. -/
theorem exec_effect : ∀ (i : Instr) (s : State), Effect i.writes s (exec i s)
  | .cls, s => s.clearScreen_unchanged
  | .ret, s => s.popPc_effect
  | .high, s => s.setMode_unchanged .high
  | .low, s => s.setMode_unchanged .low
  | .exit, s => execExit_effect s
  | .scr, s => .refl _ s
  | .scl, s => .refl _ s
  | .scd _, s => .refl _ s
  | .jp nnn, s => s.writePc_unchanged (addrOf nnn)
  | .call nnn, s => s.pushAndJump_effect (addrOf nnn)
  | .seImm _ _, s => s.skipIf_unchanged _
  | .sneImm _ _, s => s.skipIf_unchanged _
  | .seReg _ _, s => s.skipIf_unchanged _
  | .sneReg _ _, s => s.skipIf_unchanged _
  | .ldImm _ _, s => s.setReg_unchanged _ _
  | .addImm _ _, s => s.setReg_unchanged _ _
  | .ldReg _ _, s => s.setReg_unchanged _ _
  | .orReg _ _, s => s.setReg_unchanged _ _
  | .andReg _ _, s => s.setReg_unchanged _ _
  | .xorReg _ _, s => s.setReg_unchanged _ _
  | .addReg _ _, s => s.writeRF_unchanged _ _ _
  | .sub _ _, s => s.writeRF_unchanged _ _ _
  | .shr _ _, s => s.writeRF_unchanged _ _ _
  | .subn _ _, s => s.writeRF_unchanged _ _ _
  | .shl _ _, s => s.writeRF_unchanged _ _ _
  | .ldI nnn, s => s.writeI_unchanged (addrOf nnn)
  | .jpV0 nnn, s => s.writePc_unchanged (addrOf nnn + wordOf (s.jumpOffset nnn))
  | .rnd x nn, s => execRnd_effect x nn s
  | .drw x y n, s => execDrw_effect x y n s
  | .skp x, s => execSkp_effect x s
  | .sknp x, s => execSknp_effect x s
  | .ldVxDt _, s => s.setReg_unchanged _ _
  | .ldVxK x, s => execLdVxK_effect x s
  | .ldDtVx x, s => s.writeDt_unchanged (s.reg x)
  | .ldStVx x, s => s.writeSt_unchanged (s.reg x)
  | .addI x, s => execAddI_effect x s
  | .ldF x, s => s.writeI_unchanged (wordOf (s.reg x) * 5)
  | .ldHf x, s => s.writeI_unchanged (wordOf (s.reg x) * 10 + 80)
  | .ldB x, s => execLdB_effect x s
  | .ldMemVx x, s => execLdMemVx_effect x s
  | .ldVxMem x, s => execLdVxMem_effect x s
  | .ldRVx x, s => execLdRVx_effect x s
  | .ldVxR x, s => execLdVxR_effect x s
  | .unrecognised _, s => .refl _ s

/-- An instruction that goes on leaves every part unchanged that it may not write. -/
theorem exec_unchanged {i : Instr} {s t : State} (h : exec i s = .next t) : Unchanged i.writes s t := by
  have he := exec_effect i s
  rwa [h] at he

/-- An instruction is refused only with SP above 16 (R30). -/
theorem sp_of_exec_refused {i : Instr} {s : State} {r : Refusal} (h : exec i s = .refused r) : 16 < s.sp.toNat := by
  have he := exec_effect i s
  rwa [h] at he

/-- The frame in the statements' own terms: a byte of memory reads as before when the stored bytes, the configuration and the number of
the draw do. -/
theorem Unchanged.sameOutside {parts : List Part} {s t : State} (h : Unchanged parts s t)
    (hb : .mem ∈ parts ∨ .cfg ∉ parts ∧ .initDraw ∉ parts) : SameOutside parts s t := by
  have hbyte : .mem ∈ parts ∨ ∀ a, t.byte a = s.byte a := by
    by_cases hm : .mem ∈ parts
    · exact .inl hm
    · obtain ⟨hc, hd⟩ := hb.resolve_left hm
      exact .inr (State.byte_congr (h.mem hm) (h.cfg hc) (h.initDraw hd))
  have or_of {p q : Prop} (hq : ¬ p → q) : p ∨ q := Classical.or_iff_not_imp_left.2 hq
  exact ⟨or_of h.v, or_of h.i, or_of h.pc, or_of h.sp, or_of h.stack, or_of h.dt, or_of h.st, or_of h.mode, or_of h.fb,
    or_of h.redraw, or_of h.rpl, or_of h.keys, or_of h.opcode, hbyte, or_of h.loaded, or_of h.fault, or_of h.cfg,
    or_of h.trace, or_of fun hk => ⟨h.keySamples hk, h.keyDraw hk⟩, or_of fun hr => ⟨h.randomBytes hr, h.randomDraw hr⟩,
    or_of h.initDraw⟩

/-- An instruction changes nothing outside the parts it may write. -/
theorem exec_sameOutside {i : Instr} {s t : State} (h : exec i s = .next t) : SameOutside i.writes s t := by
  refine (exec_unchanged h).sameOutside ?_
  by_cases he : i = .exit
  · exact .inl (by simp [he])
  · exact .inr (by simp [he])

/-! ## One step -/

/-- A step that goes on is that of an idle core, or an execute step with the end of its cycle (R114, R284). -/
theorem step_next {s u : State} (h : step s = .next u) :
    u = s ∨ ∃ w t, fetch s = .ok w ∧ exec (decodeWord w) (s.sampleKeys.latch w) = .next t ∧ u = t.endCycle := by
  obtain ⟨f, -, hs⟩ | ⟨-, -, hs⟩ | ⟨-, -, f, -, hs⟩ | ⟨-, -, w, hw, hs⟩ := step_cases s
  · simp [hs] at h
  · exact .inl (by simpa [hs] using h.symm)
  · simp [hs] at h
  · obtain ⟨t, ht, hu⟩ := runInstr_next (hs.symm.trans h)
    exact .inr ⟨w, t, hw, ht, hu⟩

/-- The execute step and the end of the cycle are refused only when the instruction is. -/
theorem runInstr_refused {i : Instr} {s : State} {r : Refusal} (h : runInstr i s = .refused r) : exec i s = .refused r := by
  unfold runInstr at h
  split at h
  · simp at h
  · simp at h
  · next r' hr => rw [hr, ← h]

/-- A step is refused only with SP above 16 (R30). -/
theorem sp_of_step_refused {s : State} {r : Refusal} (h : step s = .refused r) : 16 < s.sp.toNat := by
  obtain ⟨f, -, hs⟩ | ⟨-, -, hs⟩ | ⟨-, -, f, -, hs⟩ | ⟨-, -, w, hw, hs⟩ := step_cases s
  · simp [hs] at h
  · simp [hs] at h
  · simp [hs] at h
  · simpa using sp_of_exec_refused (runInstr_refused (hs.symm.trans h))

/-! ## The invariant -/

/-- Memory is in canonical form, and every stored byte lies inside it (R47). -/
abbrev State.MemoryOk (s : State) : Prop := s.mem.wf = true ∧ s.mem.below s.cfg.memSize.bytes = true

/-- The framebuffer is in canonical form, and every lit cell is one of the mode (R34, R36). -/
abbrev State.ScreenOk (s : State) : Prop := s.fb.wf = true ∧ s.fb.fits s.mode = true

/-- The part of the invariant that holds inside a cycle too, where a redraw may be pending (R123). -/
structure State.MidCycleInv (s : State) : Prop where
  memory : s.MemoryOk
  screen : s.ScreenOk
  sp : s.sp ≤ 16
  trace : s.trace.all Event.wf = true

theorem State.inv_iff (s : State) : s.Inv ↔ s.MidCycleInv ∧ s.redraw = false := by
  constructor
  · rintro ⟨hwf, hbelow, hfb, hfits, hsp, hredraw, htrace⟩
    exact ⟨⟨⟨hwf, hbelow⟩, ⟨hfb, hfits⟩, hsp, htrace⟩, hredraw⟩
  · rintro ⟨⟨⟨hwf, hbelow⟩, ⟨hfb, hfits⟩, hsp, htrace⟩, hredraw⟩
    exact ⟨hwf, hbelow, hfb, hfits, hsp, hredraw, htrace⟩

theorem State.screenOk_of_fb_nil {s : State} (h : s.fb = []) : s.ScreenOk := by
  simp [State.ScreenOk, h, Framebuffer.wf, Framebuffer.fits]

/-- Memory after an instruction: only FX33 and FX55 store, and 00FD empties the list. -/
theorem exec_keeps_memory {i : Instr} {s t : State} (h : exec i s = .next t) (hs : s.MemoryOk) : t.MemoryOk := by
  by_cases hm : .mem ∈ i.writes
  · obtain rfl | ⟨x, rfl⟩ | ⟨x, rfl⟩ := Instr.mem_mem_writes.1 hm
    · cases h
      exact ⟨rfl, rfl⟩
    · simp only [exec, execLdB] at h
      cases hst : storeBytes s s.index (decimalDigits (s.reg x)) with
      | error f => simp [hst, orFault] at h
      | ok u =>
        obtain rfl : u = t := by simpa [hst, orFault] using h
        exact storeBytes_keeps hst hs
    · simp only [exec, execLdMemVx] at h
      cases hst : storeBytes s s.index (s.regsUpTo x) with
      | error f => simp [hst] at h
      | ok u =>
        obtain rfl : u.bumpIndex x = t := by simpa [hst] using h
        have hu : u.MemoryOk := storeBytes_keeps hst hs
        exact hu
  · have hu := exec_unchanged h
    rwa [State.MemoryOk, hu.mem hm, hu.cfg (Instr.cfg_notMem_writes i)]

/-- A change of mode clears the framebuffer (R134). -/
theorem State.setMode_screenOk {s : State} (hs : s.ScreenOk) (m : Mode) : (s.setMode m).ScreenOk := by
  by_cases hm : s.mode = m
  · subst hm
    simpa [State.ScreenOk] using hs
  · exact State.screenOk_of_fb_nil (by simp [hm])

/-- The framebuffer after an instruction: 00E0, 00FF, 00FE and 00FD clear it or keep it, and DXYN draws on it. -/
theorem exec_keeps_screen {i : Instr} {s t : State} (h : exec i s = .next t) (hs : s.ScreenOk) : t.ScreenOk := by
  by_cases hfb : .fb ∈ i.writes
  · obtain rfl | rfl | rfl | rfl | ⟨x, y, n, rfl⟩ := Instr.fb_mem_writes.1 hfb
    · cases h
      exact State.screenOk_of_fb_nil rfl
    · cases h
      exact State.screenOk_of_fb_nil rfl
    · cases h
      exact State.setMode_screenOk hs .high
    · cases h
      exact State.setMode_screenOk hs .low
    · simp only [exec, execDrw] at h
      split at h
      · cases h
      · cases h
        exact State.paint_fb_keeps hs _
  · have hmode : .mode ∉ i.writes := fun hm => hfb (by
      simp only [Instr.mode_mem_writes, Instr.fb_mem_writes] at hm ⊢
      tauto)
    have hu := exec_unchanged h
    rwa [State.ScreenOk, hu.fb hfb, hu.mode hmode]

/-- SP after an instruction: only a push, a pop and 00FD move it (R30). -/
theorem exec_keeps_sp {i : Instr} {s t : State} (h : exec i s = .next t) (hs : s.sp ≤ 16) : t.sp ≤ 16 := by
  by_cases hsp : .sp ∈ i.writes
  · obtain rfl | rfl | ⟨nnn, rfl⟩ := Instr.sp_mem_writes.1 hsp
    · cases h
      exact BitVec.le_def.2 (Nat.zero_le _)
    · obtain ⟨-, he⟩ | ⟨_, hpos, hle, he⟩ | ⟨-, he⟩ := s.popPc_cases
      all_goals cases he.symm.trans h
      exact sp_pop_le hpos hle
    · obtain ⟨-, he⟩ | ⟨hlt, he⟩ | ⟨-, he⟩ := s.pushAndJump_cases (addrOf nnn)
      all_goals cases he.symm.trans h
      exact sp_push_le hlt
  · rwa [(exec_unchanged h).sp hsp]

theorem exec_keeps_midCycleInv {i : Instr} {s t : State} (h : exec i s = .next t) (hs : s.MidCycleInv) : t.MidCycleInv where
  memory := exec_keeps_memory h hs.memory
  screen := exec_keeps_screen h hs.screen
  sp := exec_keeps_sp h hs.sp
  trace := by rw [(exec_unchanged h).trace (Instr.trace_notMem_writes i)]; exact hs.trace

/-- The key sample and the fetch write no part the invariant speaks of (R66, R110, R111). -/
theorem State.MidCycleInv.latch_sampleKeys {s : State} (hs : s.MidCycleInv) (w : Word) : (s.sampleKeys.latch w).MidCycleInv := by
  obtain ⟨hmem, hscreen, hsp, htrace⟩ := hs
  exact ⟨by simpa [State.MemoryOk] using hmem, by simpa [State.ScreenOk] using hscreen, by simpa using hsp,
    by simpa using htrace⟩

theorem State.timerStep_trace_wf {s : State} (h : s.trace.all Event.wf = true) : s.timerStep.trace.all Event.wf = true := by
  rw [State.timerStep_trace]
  split
  · simpa [Event.wf] using h
  · exact h

theorem State.emitFrame_trace_wf {s : State} (h : s.trace.all Event.wf = true) (hs : s.ScreenOk) :
    s.emitFrame.trace.all Event.wf = true := by
  rw [State.emitFrame_trace]
  split
  · simpa [Event.wf, hs] using h
  · exact h

/-- The end of a cycle emits a frame of the current framebuffer at most, and clears REDRAW (R119, R123). -/
theorem State.MidCycleInv.endCycle_inv {s : State} (hs : s.MidCycleInv) : s.endCycle.Inv := by
  refine (State.inv_iff _).2 ⟨⟨hs.memory, hs.screen, hs.sp, ?_⟩, rfl⟩
  exact State.emitFrame_trace_wf (State.timerStep_trace_wf hs.trace) hs.screen

/-- Settles O4: the execute step keeps the part of the invariant that holds inside a cycle, and the end of the cycle the rest. -/
theorem stepKeepsCoreInvariant : Obligations.StepKeepsCoreInvariant := by
  unfold Obligations.StepKeepsCoreInvariant
  intro s u hs h
  obtain rfl | ⟨w, t, -, ht, rfl⟩ := step_next h
  · exact hs
  · have hmid := ((State.inv_iff s).1 hs).1.latch_sampleKeys w
    exact (exec_keeps_midCycleInv ht hmid).endCycle_inv

/-- Settles O54: a refusal needs SP above 16, which the invariant excludes. -/
theorem noStepIsRefusedUnderInvariant : Obligations.NoStepIsRefusedUnderInvariant := by
  unfold Obligations.NoStepIsRefusedUnderInvariant
  intro s r hs h
  have hle : s.sp.toNat ≤ 16 := BitVec.le_def.1 ((State.inv_iff s).1 hs).1.sp
  exact absurd (sp_of_step_refused h) (Nat.not_lt.2 hle)

/-! ## The inputs, the stack and the configuration -/

/-- Settles O13: the sample is taken before the fetch, and no instruction but 00FD writes the keys or the inputs after it. -/
theorem cycleTakesNextKeySample : Obligations.CycleTakesNextKeySample := by
  unfold Obligations.CycleTakesNextKeySample
  intro s u w hl hf hw h
  obtain ⟨t, ht, rfl⟩ := runInstr_next ((step_of_fetch hl hf hw).symm.trans h)
  have hu := exec_unchanged ht
  refine ⟨?_, ?_, ?_⟩
  · by_cases he : decodeWord w = .exit
    · rw [he] at ht
      cases ht
      simp [he]
    · simp [he, hu.keys (by simp [he]), State.sampleKeys_keys]
  · simp [hu.keySamples (Instr.keyInput_notMem_writes _), State.sampleKeys_keySamples]
  · simp [hu.keyDraw (Instr.keyInput_notMem_writes _), State.sampleKeys_keyDraw]

/-- A return with `k + 1` entries in use takes entry `k` (R132). -/
theorem exec_ret_of_sp {s : State} {k : Nat} (hk : k < 16) (hsp : s.sp.toNat = k + 1) :
    ∃ u, exec .ret s = .next u ∧ u.pc = s.stack[k] ∧ u.sp = s.sp - 1 := by
  obtain ⟨h0, -⟩ | ⟨_, -, -, hpop⟩ | ⟨h16, -⟩ := s.popPc_cases
  · simp [h0] at hsp
  · exact ⟨_, hpop, by simp [hsp], rfl⟩
  · omega

/-- Settles O23: the call leaves `SP + 1` entries in use, the last one the PC it pushed. -/
theorem returnUndoesCall : Obligations.ReturnUndoesCall := by
  unfold Obligations.ReturnUndoesCall
  intro s t nnn pc h
  obtain ⟨-, he⟩ | ⟨hlt, he⟩ | ⟨-, he⟩ := s.pushAndJump_cases (addrOf nnn)
  all_goals cases he.symm.trans h
  have hsp : (s.sp + 1).toNat = s.sp.toNat + 1 := BitVec.toNat_add_of_lt (by simp; omega)
  obtain ⟨u, hu, hpc, husp⟩ := exec_ret_of_sp
    (s := { s with stack := s.stack.set s.sp.toNat s.pc hlt, sp := s.sp + 1, pc := pc }) hlt hsp
  exact ⟨u, hu, by simpa using hpc, by simpa using husp⟩

/-- Settles O24, from all that a push and a pop can do. -/
theorem illegalStackPointerIsRefused : Obligations.IllegalStackPointerIsRefused := by
  unfold Obligations.IllegalStackPointerIsRefused
  intro s nnn h
  constructor
  · obtain ⟨hsp, -⟩ | ⟨hlt, -⟩ | ⟨-, he⟩ := s.pushAndJump_cases (addrOf nnn)
    · simp [hsp] at h
    · omega
    · exact he
  · obtain ⟨hsp, -⟩ | ⟨-, -, hle, -⟩ | ⟨-, he⟩ := s.popPc_cases
    · simp [hsp] at h
    · omega
    · exact he

/-- No step writes the configuration (R44). -/
theorem step_cfg {s u : State} (h : step s = .next u) : u.cfg = s.cfg := by
  obtain rfl | ⟨w, t, -, ht, rfl⟩ := step_next h
  · rfl
  · simp [(exec_unchanged ht).cfg (Instr.cfg_notMem_writes _)]

/-- No load writes the configuration (R44). -/
theorem loadGame_cfg (image : List Byte) (s : State) : (loadGame image s).2.cfg = s.cfg := by
  unfold loadGame
  split <;> rfl

/-- A write of the configuration that leaves the fonts changes nothing else, no byte of memory included. -/
theorem State.writeCfg_sameOutside {s : State} {c : Config.Params} (hlo : c.fontLo = s.cfg.fontLo)
    (hhi : c.fontHi = s.cfg.fontHi) : SameOutside [.cfg] s { s with cfg := c } := by
  have hbyte (a : Nat) : State.byte { s with cfg := c } a = s.byte a := by
    simp [State.byte, State.initByte, hlo, hhi]
  simp [SameOutside, hbyte]

/-- Settles O47, from the frame of every instruction and of a host write. -/
theorem onlyHostWritesChangeQuirks : Obligations.OnlyHostWritesChangeQuirks := by
  unfold Obligations.OnlyHostWritesChangeQuirks
  refine ⟨fun s t => step_cfg, State.init_cfg, fun s image => loadGame_cfg image s, fun s q => ?_, fun s n => ?_⟩
  · exact ⟨_, rfl, rfl, State.writeCfg_sameOutside rfl rfl⟩
  · exact ⟨_, rfl, rfl, State.writeCfg_sameOutside rfl rfl⟩

/-! ## The parts few instructions write -/

/-- Settles O48: MODE is in the frame of every other instruction. -/
theorem onlyModeInstructionsChangeMode : Obligations.OnlyModeInstructionsChangeMode := by
  unfold Obligations.OnlyModeInstructionsChangeMode
  refine ⟨rfl, rfl, rfl, rfl, fun i s t h => ⟨?_, ?_, ?_, ?_⟩⟩
  · rintro rfl; cases h; rfl
  · rintro rfl; cases h; rfl
  · rintro rfl; cases h; rfl
  · exact fun hh hl he => (exec_unchanged h).mode (by simp [hh, hl, he])

/-- Settles O51, from the frame of every instruction. -/
theorem onlySaveWritesRplAndNoneWritesKeys : Obligations.OnlySaveWritesRplAndNoneWritesKeys := by
  unfold Obligations.OnlySaveWritesRplAndNoneWritesKeys
  intro i s t h he
  have hu := exec_unchanged h
  exact ⟨hu.keys (by simp [he]), fun hx => hu.rpl (by simp [he, hx])⟩

/-! ## What no instruction reads -/

/-- The state with the stack, SP, ST and OPCODE of another: the parts that only 2NNN and 00EE, or no instruction, read (R29, R32,
R42). -/
def State.withUnread (s u : State) : State := { s with stack := u.stack, sp := u.sp, st := u.st, opcode := u.opcode }

/-- An outcome with a change made to its next state. -/
def mapNext (f : State → State) : Host.Outcome State Fault Refusal → Host.Outcome State Fault Refusal
  | .next t => .next (f t)
  | .fault e => .fault e
  | .refused r => .refused r

@[simp] theorem State.withUnread_cfg (s u : State) : (s.withUnread u).cfg = s.cfg := rfl
@[simp] theorem State.withUnread_reg (s u : State) (r : Nibble) : (s.withUnread u).reg r = s.reg r := rfl
@[simp] theorem State.withUnread_mode (s u : State) : (s.withUnread u).mode = s.mode := rfl
@[simp] theorem State.withUnread_index (s u : State) : (s.withUnread u).index = s.index := rfl
@[simp] theorem State.withUnread_firstKey (s u : State) : (s.withUnread u).firstKey = s.firstKey := rfl
@[simp] theorem State.withUnread_regsUpTo (s u : State) (x : Nibble) : (s.withUnread u).regsUpTo x = s.regsUpTo x := rfl

theorem State.writeRF_withUnread (s u : State) (x : Nibble) (r : Byte) (f : Bool) :
    (s.withUnread u).writeRF x r f = (s.writeRF x r f).withUnread u := by
  unfold State.writeRF
  rw [State.withUnread_cfg]
  cases s.cfg.vfOrder <;> rfl

theorem State.dropRandom_withUnread (s u : State) : (s.withUnread u).dropRandom = s.dropRandom.withUnread u := by
  have hr : (s.withUnread u).randomBytes = s.randomBytes := rfl
  unfold State.dropRandom
  rw [hr]
  cases s.randomBytes <;> rfl

@[simp] theorem loadBytes_withUnread (s u : State) (a n : Nat) : loadBytes (s.withUnread u) a n = loadBytes s a n := by
  induction n generalizing a with
  | zero => rfl
  | succ n ih =>
    have hread : memRead (s.withUnread u) a = memRead s a := rfl
    rw [loadBytes, loadBytes, hread, ih]

theorem memWrite_withUnread (s u : State) (a : Nat) (v : Byte) :
    memWrite (s.withUnread u) a v = (memWrite s a v).map (·.withUnread u) := by
  unfold memWrite
  rw [State.withUnread_cfg]
  split <;> rfl

theorem storeBytes_withUnread (s u : State) (a : Nat) (bs : List Byte) :
    storeBytes (s.withUnread u) a bs = (storeBytes s a bs).map (·.withUnread u) := by
  induction bs generalizing s a with
  | nil => rfl
  | cons b bs ih =>
    rw [storeBytes, storeBytes, memWrite_withUnread]
    cases memWrite s a b with
    | error f => rfl
    | ok t => exact ih t (a + 1)

/-- An instruction that writes neither SP nor ST does not read the four parts: it does the same whatever they hold. -/
theorem exec_withUnread {i : Instr} (s u : State) (hsp : .sp ∉ i.writes) (hst : .st ∉ i.writes) :
    exec i (s.withUnread u) = mapNext (·.withUnread u) (exec i s) := by
  cases i with
  | call nnn => simp at hsp
  | ret => simp at hsp
  | exit => simp at hsp
  | ldStVx x => simp at hst
  | addReg x y => exact congrArg Host.Outcome.next (s.writeRF_withUnread u ..)
  | sub x y => exact congrArg Host.Outcome.next (s.writeRF_withUnread u ..)
  | shr x y => exact congrArg Host.Outcome.next (s.writeRF_withUnread u ..)
  | subn x y => exact congrArg Host.Outcome.next (s.writeRF_withUnread u ..)
  | shl x y => exact congrArg Host.Outcome.next (s.writeRF_withUnread u ..)
  | rnd x nn => exact congrArg (fun t => Host.Outcome.next (t.setReg x (s.randomByte &&& nn))) (s.dropRandom_withUnread u)
  | drw x y n =>
    simp only [exec, execDrw, State.withUnread_index, State.withUnread_mode, loadBytes_withUnread]
    cases loadBytes s s.index (spriteBytes s.mode n) <;> rfl
  | skp x =>
    simp only [exec, execSkp, State.withUnread_reg]
    cases keyIndex (s.reg x) <;> rfl
  | sknp x =>
    simp only [exec, execSknp, State.withUnread_reg]
    cases keyIndex (s.reg x) <;> rfl
  | ldVxK x =>
    simp only [exec, execLdVxK, State.withUnread_firstKey]
    cases s.firstKey <;> rfl
  | addI x =>
    simp only [exec, execAddI, State.withUnread_cfg]
    cases s.cfg.fx1eVf <;> rfl
  | ldB x =>
    simp only [exec, execLdB, State.withUnread_index, State.withUnread_reg, storeBytes_withUnread]
    cases storeBytes s s.index (decimalDigits (s.reg x)) <;> rfl
  | ldMemVx x =>
    simp only [exec, execLdMemVx, State.withUnread_index, State.withUnread_regsUpTo, storeBytes_withUnread]
    cases storeBytes s s.index (s.regsUpTo x) <;> rfl
  | ldVxMem x =>
    simp only [exec, execLdVxMem, State.withUnread_index, loadBytes_withUnread]
    cases loadBytes s s.index (x.toNat + 1) <;> rfl
  | ldRVx x =>
    simp only [exec, execLdRVx]
    split <;> rfl
  | ldVxR x =>
    simp only [exec, execLdVxR]
    split <;> rfl
  | _ => rfl

/-- Such an instruction leaves the four parts as they are. -/
theorem exec_unread_unchanged {i : Instr} {s t : State} (h : exec i s = .next t) (hsp : .sp ∉ i.writes) (hst : .st ∉ i.writes) :
    t.stack = s.stack ∧ t.sp = s.sp ∧ t.st = s.st ∧ t.opcode = s.opcode := by
  have hu := exec_unchanged h
  have hstack : .stack ∉ i.writes := fun hm => hsp (by
    simp only [Instr.stack_mem_writes, Instr.sp_mem_writes] at hm ⊢
    tauto)
  have hop : .opcode ∉ i.writes := fun hm => hst (by
    simp only [Instr.opcode_mem_writes, Instr.st_mem_writes] at hm ⊢
    exact .inl hm)
  exact ⟨hu.stack hstack, hu.sp hsp, hu.st hst, hu.opcode hop⟩

/-- Settles O49: every other instruction leaves the stack and SP and does not read them. FX18 is taken apart, since it writes ST. -/
theorem onlyCallAndReturnUseStack : Obligations.OnlyCallAndReturnUseStack := by
  unfold Obligations.OnlyCallAndReturnUseStack
  intro i s stack sp hc hr he
  have hsp : .sp ∉ i.writes := by simp [hc, hr, he]
  by_cases hst : .st ∈ i.writes
  · obtain ⟨x, rfl⟩ := (Instr.st_mem_writes.1 hst).resolve_left he
    refine ⟨?_, nofun⟩
    intro t h
    cases h
    exact ⟨rfl, rfl, rfl⟩
  · have hread := exec_withUnread s { s with stack := stack, sp := sp } hsp hst
    constructor
    · intro t h
      obtain ⟨hstack, htsp, htst, hop⟩ := exec_unread_unchanged h hsp hst
      have ht : t.withUnread { s with stack := stack, sp := sp } = { t with stack := stack, sp := sp } := by
        simp [State.withUnread, htst, hop]
      rw [h, mapNext, ht] at hread
      exact ⟨hstack, htsp, hread⟩
    · intro f h
      rw [h] at hread
      exact hread

theorem hideStOpcode_pushAndJump (s : State) (st : Byte) (opcode : Word) (target : Word) :
    hideStOpcode (State.pushAndJump { s with st := st, opcode := opcode } target) = hideStOpcode (s.pushAndJump target) := by
  unfold State.pushAndJump
  dsimp only
  split_ifs <;> rfl

theorem hideStOpcode_popPc (s : State) (st : Byte) (opcode : Word) :
    hideStOpcode (State.popPc { s with st := st, opcode := opcode }) = hideStOpcode s.popPc := by
  unfold State.popPc
  dsimp only
  split_ifs <;> rfl

/-- Settles O52. The instructions that read the stack, or write ST or OPCODE, are taken one by one. -/
theorem noInstructionReadsStOrOpcode : Obligations.NoInstructionReadsStOrOpcode := by
  unfold Obligations.NoInstructionReadsStOrOpcode
  intro i s st opcode
  by_cases hsp : .sp ∈ i.writes
  · obtain rfl | rfl | ⟨nnn, rfl⟩ := Instr.sp_mem_writes.1 hsp
    · rfl
    · exact hideStOpcode_popPc s st opcode
    · exact hideStOpcode_pushAndJump s st opcode (addrOf nnn)
  by_cases hst : .st ∈ i.writes
  · obtain rfl | ⟨x, rfl⟩ := Instr.st_mem_writes.1 hst
    · rfl
    · rfl
  have hread := exec_withUnread s { s with st := st, opcode := opcode } hsp hst
  refine (congrArg hideStOpcode hread).trans ?_
  cases h : exec i s with
  | next t =>
    obtain ⟨hstack, htsp, -, -⟩ := exec_unread_unchanged h hsp hst
    simp [mapNext, hideStOpcode, State.withUnread, hstack, htsp]
  | fault f => rfl
  | refused r => rfl

/-! ## Reset -/

/-- Settles O1, from the model's lemmas on Init. -/
theorem initClearsRegistersAndSetsPc : Obligations.InitClearsRegistersAndSetsPc :=
  fun s => ⟨s.init_reg, s.init_pc⟩

theorem State.reset_byte (a : Nat) : State.reset.byte a = State.reset.initByte a := rfl

/-- Settles O2: memory lists nothing after reset, so every byte reads as its reset contents. -/
theorem constructionState : Obligations.ConstructionState := by
  unfold Obligations.ConstructionState
  have hlo (k : Fin 80) : State.reset.byte k = State.reset.cfg.fontLo[k] := by
    rw [State.reset_byte, State.initByte, dif_pos k.isLt]
    rfl
  have hhi (k : Fin 160) : State.reset.byte (80 + k) = State.reset.cfg.fontHi[k] := by
    rw [State.reset_byte, State.initByte, dif_neg (by omega), dif_pos (by omega)]
    simp
  have hrest (a : Nat) (ha : 240 ≤ a) : State.reset.byte a = Config.memInit State.reset.initDraw a :=
    State.byte_unlisted rfl ha
  have hreg (r : Nibble) : State.reset.reg r = 0 := Vector.getElem_replicate _
  have hstack (k : Fin 16) : State.reset.stack[k] = 0 := Vector.getElem_replicate _
  have hkeys (k : Fin 16) : State.reset.keys[k] = false := Vector.getElem_replicate _
  exact ⟨hreg, rfl, rfl, rfl, hstack, rfl, rfl, rfl, fun _ => rfl, rfl, hkeys, rfl, rfl, rfl, hlo, hhi, hrest, rfl⟩

end Sys2Proof.Machine

namespace Sys2Proof.Machine

/-! ## Memory -/

/-- Settles O50: memory is in the frame of every other instruction. -/
theorem onlyStoresChangeMemory : Obligations.OnlyStoresChangeMemory := by
  unfold Obligations.OnlyStoresChangeMemory
  intro i s t h hb hm he
  have hmem : .mem ∉ i.writes := by simp [hb, hm, he]
  have hdraw : .initDraw ∉ i.writes := by simp [he]
  have hu := exec_unchanged h
  exact State.byte_congr (hu.mem hmem) (hu.cfg (Instr.cfg_notMem_writes i)) (hu.initDraw hdraw)

/-- A byte write goes on exactly inside memory, and then it puts the byte (R73). -/
theorem memWrite_eq_ok_iff {s t : State} {a : Nat} {v : Byte} :
    memWrite s a v = .ok t ↔ a < s.cfg.memSize.bytes ∧ { s with mem := s.mem.put a v } = t := by
  by_cases h : a < s.cfg.memSize.bytes
  · simp [memWrite_ok v h, h]
  · simp [memWrite_error v (Nat.not_lt.1 h), h]

/-- A byte write changes nothing but memory. -/
theorem memWrite_unchanged {s t : State} {a : Nat} {v : Byte} (h : memWrite s a v = .ok t) : Unchanged [.mem] s t := by
  obtain ⟨-, rfl⟩ := memWrite_eq_ok_iff.1 h
  constructor <;> simp

/-- What a byte of memory holds after a byte write (R83). -/
theorem byte_of_memWrite {s t : State} {a : Nat} {v : Byte} (h : memWrite s a v = .ok t) (b : Nat) :
    t.byte b = if a = b then v else s.byte b := by
  obtain ⟨-, rfl⟩ := memWrite_eq_ok_iff.1 h
  simp only [State.byte, Memory.get?_put]
  split <;> rfl

/-- Settles O15, from what every byte holds after the write and the frame of the write. -/
theorem memoryReadsLastWrite : Obligations.MemoryReadsLastWrite := by
  unfold Obligations.MemoryReadsLastWrite
  intro s a v
  refine ⟨fun ha => ?_, fun ha => ⟨memWrite_error v ha, memRead_error ha⟩⟩
  obtain ⟨t, ht⟩ : ∃ t, memWrite s a v = .ok t := ⟨_, memWrite_ok v ha⟩
  have hu := memWrite_unchanged ht
  have hcfg : t.cfg = s.cfg := hu.cfg (by simp)
  refine ⟨t, ht, ?_, fun b hb => ?_, hu.sameOutside (.inl (by simp))⟩
  · rw [memRead_ok (by rwa [hcfg]), byte_of_memWrite ht, if_pos rfl]
  · rw [memRead, memRead, hcfg, byte_of_memWrite ht, if_neg hb.symm]

/-- Settles O12: no write moves PC, and the second write leaves the byte of the first. -/
theorem fetchSeesStoredBytesBigEndian : Obligations.FetchSeesStoredBytesBigEndian := by
  unfold Obligations.FetchSeesStoredBytesBigEndian
  intro s t u hi lo ht hu
  have hpc : u.pc = s.pc := ((memWrite_unchanged hu).pc (by simp)).trans ((memWrite_unchanged ht).pc (by simp))
  have hcfg : u.cfg = t.cfg := (memWrite_unchanged hu).cfg (by simp)
  have hlt : s.pc.toNat + 1 < t.cfg.memSize.bytes := (memWrite_eq_ok_iff.1 hu).1
  have hhi : u.byte s.pc.toNat = hi := by simp [byte_of_memWrite hu, byte_of_memWrite ht]
  have hlo : u.byte (s.pc.toNat + 1) = lo := by simp [byte_of_memWrite hu]
  have hfetch : fetch u = .ok (wordOfBytes hi lo) := by
    rw [fetch_ok (by rwa [hpc, hcfg]), hpc, hhi, hlo]
  exact ⟨_, hfetch, wordOfBytes_toNat hi lo⟩

/-- A step of a running core whose fetch faults ends with that fault (R110, R115). -/
theorem step_of_fetch_error {s : State} {f : Fault} (hl : s.loaded = true) (hf : s.fault = none) (hw : fetch s = .error f) :
    step s = .fault f := by
  simp [step, cycleIfRunning, cycle, hl, hf, hw]

/-- Settles O11: the first byte outside is the greater of PC and MEM_SIZE. -/
theorem fetchOutsideMemoryFaults : Obligations.FetchOutsideMemoryFaults := by
  unfold Obligations.FetchOutsideMemoryFaults
  intro s hl hf h
  have hfirst : max s.pc.toNat s.cfg.memSize.bytes =
      if s.cfg.memSize.bytes ≤ s.pc.toNat then s.pc.toNat else s.pc.toNat + 1 := by
    split <;> omega
  rw [step_of_fetch_error hl hf (fetch_error h), hfirst]

end Sys2Proof.Machine

namespace Sys2Proof

/-! ## Decoding and encoding

The decoder and the encoder are inverse to each other (R90, R91, R94, R95), and the decoder follows the opcode map (R93). -/

/-! ### The fields of an assembled word, as rewrite rules -/

@[simp] theorem fieldG_addr (g : Nibble) (nnn : Addr12) : fieldG (g ++ nnn) = g := (fields_of_addr g nnn).1
@[simp] theorem fieldNNN_addr (g : Nibble) (nnn : Addr12) : fieldNNN (g ++ nnn) = nnn := (fields_of_addr g nnn).2

@[simp] theorem fieldG_byte (g x : Nibble) (nn : Byte) : fieldG (g ++ x ++ nn) = g := (fields_of_byte g x nn).1
@[simp] theorem fieldX_byte (g x : Nibble) (nn : Byte) : fieldX (g ++ x ++ nn) = x := (fields_of_byte g x nn).2.1
@[simp] theorem fieldNN_byte (g x : Nibble) (nn : Byte) : fieldNN (g ++ x ++ nn) = nn := (fields_of_byte g x nn).2.2

@[simp] theorem fieldG_nibbles (g x y n : Nibble) : fieldG (g ++ x ++ y ++ n) = g := (fields_of_nibbles g x y n).1
@[simp] theorem fieldX_nibbles (g x y n : Nibble) : fieldX (g ++ x ++ y ++ n) = x := (fields_of_nibbles g x y n).2.1
@[simp] theorem fieldY_nibbles (g x y n : Nibble) : fieldY (g ++ x ++ y ++ n) = y := (fields_of_nibbles g x y n).2.2.1
@[simp] theorem fieldN_nibbles (g x y n : Nibble) : fieldN (g ++ x ++ y ++ n) = n := (fields_of_nibbles g x y n).2.2.2

/-! ### A word put together again from its fields

The hypotheses have the form in which a branch of the decoder gives them. -/

theorem addr_append_eq {w : Word} {g : Nibble} {nnn : Addr12} (hg : (fieldG w).toNat = g.toNat)
    (hnnn : (fieldNNN w).toNat = nnn.toNat) : g ++ nnn = w := by
  rw [← BitVec.eq_of_toNat_eq hg, ← BitVec.eq_of_toNat_eq hnnn]
  apply BitVec.eq_of_getLsbD_eq
  intro i hi
  simp only [fieldG, fieldNNN, BitVec.getLsbD_append, BitVec.getLsbD_extractLsb']
  interval_cases i <;> simp

theorem byte_append_eq {w : Word} {g : Nibble} {nn : Byte} (hg : (fieldG w).toNat = g.toNat)
    (hnn : (fieldNN w).toNat = nn.toNat) : g ++ fieldX w ++ nn = w := by
  rw [← BitVec.eq_of_toNat_eq hg, ← BitVec.eq_of_toNat_eq hnn]
  apply BitVec.eq_of_getLsbD_eq
  intro i hi
  simp only [fieldG, fieldX, fieldNN, BitVec.getLsbD_append, BitVec.getLsbD_extractLsb']
  interval_cases i <;> simp

theorem nibbles_append_eq {w : Word} {g n : Nibble} (hg : (fieldG w).toNat = g.toNat)
    (hn : (fieldN w).toNat = n.toNat) : g ++ fieldX w ++ fieldY w ++ n = w := by
  rw [← BitVec.eq_of_toNat_eq hg, ← BitVec.eq_of_toNat_eq hn]
  exact (word_eq_nibbles w).symm

/-! ### Encoding what was decoded -/

theorem encode_scd_fieldN {w : Word} (hg : (fieldG w).toNat = 0) (hx : fieldX w = 0) (hy : fieldY w = 0xC) :
    encode (.scd (fieldN w)) = w := by
  have h : (0 : Nibble) ++ fieldX w ++ fieldY w ++ fieldN w = w := nibbles_append_eq hg rfl
  rwa [hx, hy] at h

theorem encode_decodeGroup0 {w : Word} (hg : (fieldG w).toNat = 0) : encode (decodeGroup0 w) = w := by
  unfold decodeGroup0
  split
  case h_1 h => exact addr_append_eq (g := 0) (nnn := 0x0E0) hg h
  case h_2 h => exact addr_append_eq (g := 0) (nnn := 0x0EE) hg h
  case h_3 h => exact addr_append_eq (g := 0) (nnn := 0x0FF) hg h
  case h_4 h => exact addr_append_eq (g := 0) (nnn := 0x0FE) hg h
  case h_5 h => exact addr_append_eq (g := 0) (nnn := 0x0FD) hg h
  case h_6 h => exact addr_append_eq (g := 0) (nnn := 0x0FB) hg h
  case h_7 h => exact addr_append_eq (g := 0) (nnn := 0x0FC) hg h
  case h_8 =>
    split
    · next hxy =>
      obtain ⟨hx, hy⟩ := hxy
      exact encode_scd_fieldN hg hx hy
    · rfl

theorem encode_decodeGroup8 {w : Word} (hg : (fieldG w).toNat = 8) : encode (decodeGroup8 w) = w := by
  unfold decodeGroup8
  split
  case h_10 => rfl
  all_goals exact nibbles_append_eq hg ‹_›

theorem encode_decodeGroupE {w : Word} (hg : (fieldG w).toNat = 0xE) : encode (decodeGroupE w) = w := by
  unfold decodeGroupE
  split
  case h_3 => rfl
  all_goals exact byte_append_eq hg ‹_›

theorem encode_decodeGroupF {w : Word} (hg : (fieldG w).toNat = 0xF) : encode (decodeGroupF w) = w := by
  unfold decodeGroupF
  split
  case h_13 => rfl
  all_goals exact byte_append_eq hg ‹_›

/-- Group 5 or 9: the words whose last nibble is 0 (R94). -/
theorem encode_ite_fieldN {w : Word} {i : Instr} (h : (fieldN w).toNat = 0 → encode i = w) :
    encode (if fieldN w = 0 then i else .unrecognised w) = w := by
  split
  · next hn => exact h (congrArg BitVec.toNat hn)
  · rfl

/-- The encoding of what a word decodes to is the word. -/
theorem encode_decodeWord (w : Word) : encode (decodeWord w) = w := by
  unfold decodeWord
  split
  case h_1 hg => exact encode_decodeGroup0 hg
  case h_9 hg => exact encode_decodeGroup8 hg
  case h_15 hg => exact encode_decodeGroupE hg
  case h_16 =>
    have hlt : (fieldG w).toNat < 16 := (fieldG w).isLt
    have hg : (fieldG w).toNat = 0xF := by grind
    exact encode_decodeGroupF hg
  case h_2 hg | h_3 hg | h_11 hg | h_12 hg => exact addr_append_eq hg rfl
  case h_4 hg | h_5 hg | h_7 hg | h_8 hg | h_13 hg => exact byte_append_eq hg rfl
  case h_6 hg | h_10 hg => exact encode_ite_fieldN fun hn => nibbles_append_eq hg hn
  case h_14 hg => exact nibbles_append_eq hg rfl

/-! ### The row of a decoded word -/

open Laws in
/-- Every instruction is encoded in its own row (R94), an unrecognised word in none (R95). -/
theorem rowEncoding : ∀ i : Instr, RowEncoding.Statement i
  | .cls => RowEncoding.cls | .ret => RowEncoding.ret | .high => RowEncoding.high | .low => RowEncoding.low
  | .exit => RowEncoding.exit | .scr => RowEncoding.scr | .scl => RowEncoding.scl | .scd n => RowEncoding.scd n
  | .jp nnn => RowEncoding.jp nnn | .call nnn => RowEncoding.call nnn | .seImm x nn => RowEncoding.seImm x nn
  | .sneImm x nn => RowEncoding.sneImm x nn | .seReg x y => RowEncoding.seReg x y | .sneReg x y => RowEncoding.sneReg x y
  | .ldImm x nn => RowEncoding.ldImm x nn | .addImm x nn => RowEncoding.addImm x nn | .ldReg x y => RowEncoding.ldReg x y
  | .orReg x y => RowEncoding.orReg x y | .andReg x y => RowEncoding.andReg x y | .xorReg x y => RowEncoding.xorReg x y
  | .addReg x y => RowEncoding.addReg x y | .sub x y => RowEncoding.sub x y | .shr x y => RowEncoding.shr x y
  | .subn x y => RowEncoding.subn x y | .shl x y => RowEncoding.shl x y | .ldI nnn => RowEncoding.ldI nnn
  | .jpV0 nnn => RowEncoding.jpV0 nnn | .rnd x nn => RowEncoding.rnd x nn | .drw x y n => RowEncoding.drw x y n
  | .skp x => RowEncoding.skp x | .sknp x => RowEncoding.sknp x | .ldVxDt x => RowEncoding.ldVxDt x
  | .ldVxK x => RowEncoding.ldVxK x | .ldDtVx x => RowEncoding.ldDtVx x | .ldStVx x => RowEncoding.ldStVx x
  | .addI x => RowEncoding.addI x | .ldF x => RowEncoding.ldF x | .ldHf x => RowEncoding.ldHf x | .ldB x => RowEncoding.ldB x
  | .ldMemVx x => RowEncoding.ldMemVx x | .ldVxMem x => RowEncoding.ldVxMem x | .ldRVx x => RowEncoding.ldRVx x
  | .ldVxR x => RowEncoding.ldVxR x | .unrecognised w => RowEncoding.unrecognised w

/-- Only an unrecognised word stands in no row (R95). -/
theorem Instr.row_eq_none_iff {i : Instr} : i.row = none ↔ ∃ w, i = .unrecognised w := by
  cases i <;> simp [Instr.row]

/-- Only an unrecognised word can be ill-formed. -/
theorem Instr.wellFormed_of_row {i : Instr} {r : OpcodeRow} (h : i.row = some r) : i.wellFormed = true := by
  cases i with
  | unrecognised w => simp [Instr.row] at h
  | _ => rfl

theorem Instr.row_mem_opcodeMap {i : Instr} {r : OpcodeRow} (h : i.row = some r) : r ∈ opcodeMap := by
  cases i <;> cases h <;> decide

/-- The row of an instruction accepts its encoding. -/
theorem Instr.row_accepts_encode {i : Instr} {r : OpcodeRow} (h : i.row = some r) : r.accepts (encode i) = true := by
  simpa [h] using rowEncoding i (Instr.wellFormed_of_row h)

theorem accepts_of_row_decodeWord {w : Word} {r : OpcodeRow} (h : (decodeWord w).row = some r) : r.accepts w = true := by
  simpa only [encode_decodeWord] using Instr.row_accepts_encode h

theorem recognised_iff {w : Word} : recognised w = true ↔ ∃ r ∈ opcodeMap, r.accepts w = true := by
  simp [recognised]

theorem recognised_of_row_decodeWord {w : Word} {r : OpcodeRow} (h : (decodeWord w).row = some r) : recognised w = true :=
  recognised_iff.2 ⟨r, Instr.row_mem_opcodeMap h, accepts_of_row_decodeWord h⟩

/-- The decoder answers no unrecognised word but the word it was given. -/
theorem decodeWord_of_row_eq_none {w : Word} (h : (decodeWord w).row = none) : decodeWord w = .unrecognised w := by
  obtain ⟨v, hv⟩ := Instr.row_eq_none_iff.1 h
  have hvw : v = w := by simpa [hv, encode] using encode_decodeWord w
  rw [hv, hvw]

/-- A word of no row decodes to the unrecognised word itself (R95). -/
theorem decodeWord_of_not_recognised {w : Word} (h : recognised w = false) : decodeWord w = .unrecognised w := by
  refine decodeWord_of_row_eq_none (Option.eq_none_iff_forall_ne_some.2 fun r hr => ?_)
  simp [recognised_of_row_decodeWord hr] at h

/-! ### Decoding what was encoded -/

/-- A well-formed instruction is what its word decodes to. -/
theorem decodeWord_encode {i : Instr} (h : i.wellFormed = true) : decodeWord (encode i) = i := by
  cases i with
  | cls | ret | high | low | exit | scr | scl => rfl
  | scd n => revert n; decide
  | unrecognised w => exact decodeWord_of_not_recognised (w := w) (by simpa [Instr.wellFormed] using h)
  | jp | call | ldI | jpV0 | seImm | sneImm | ldImm | addImm | rnd | seReg | sneReg | drw => simp [encode, decodeWord]
  | ldReg | orReg | andReg | xorReg | addReg | sub | shr | subn | shl => simp [encode, decodeWord, decodeGroup8]
  | skp | sknp => simp [encode, decodeWord, decodeGroupE]
  | ldVxDt | ldVxK | ldDtVx | ldStVx | addI | ldF | ldHf | ldB | ldMemVx | ldVxMem | ldRVx | ldVxR =>
    simp [encode, decodeWord, decodeGroupF]

/-- Settles O5: the two bytes put together are the word, and decoding the word gives the instruction back. -/
theorem decodeGivesBackEncodedInstruction : Obligations.DecodeGivesBackEncodedInstruction := by
  unfold Obligations.DecodeGivesBackEncodedInstruction
  intro i rest h
  calc decode (encodeBytes i ++ rest)
      = .ok (decodeWord (wordOfBytes (highByte (encode i)) (lowByte (encode i))), rest) := rfl
    _ = .ok (i, rest) := by rw [wordOfBytes_highLow, decodeWord_encode h]

/-! ### The opcode map -/

/-- The patterns of the map write out every nibble, all but N, all but X and Y, all but X, or only the first (R93, R94). -/
theorem mask_of_mem_opcodeMap :
    ∀ r ∈ opcodeMap, r.mask = 0xFFFF ∨ r.mask = 0xFFF0 ∨ r.mask = 0xF00F ∨ r.mask = 0xF0FF ∨ r.mask = 0xF000 := by decide

theorem row_decodeWord_value : ∀ r ∈ opcodeMap, (decodeWord r.value).row = some r := by decide

theorem row_decodeWord_of_maskFFF0 {w v : Word} (hr : ⟨0xFFF0, v⟩ ∈ opcodeMap) (h : w &&& 0xFFF0 = v) :
    (decodeWord w).row = some ⟨0xFFF0, v⟩ := by
  have hv : v = 0x00C0 := by simpa [opcodeMap, opcodeRowsFlow, opcodeRowsAlu, opcodeRowsRest] using hr
  subst hv
  obtain ⟨hg, hx, hy⟩ := fields_of_maskFFF0 h
  rw [← encode_scd_fieldN (congrArg BitVec.toNat hg) hx hy, decodeWord_encode rfl]
  rfl

theorem row_decodeWord_of_maskF00F {w v : Word} (hr : ⟨0xF00F, v⟩ ∈ opcodeMap) (h : w &&& 0xF00F = v) :
    (decodeWord w).row = some ⟨0xF00F, v⟩ := by
  have hv : v ∈ [0x5000#16, 0x9000, 0x8000, 0x8001, 0x8002, 0x8003, 0x8004, 0x8005, 0x8006, 0x8007, 0x800E] := by
    simpa [opcodeMap, opcodeRowsFlow, opcodeRowsAlu, opcodeRowsRest] using hr
  obtain ⟨hg, hn⟩ := fields_of_maskF00F h
  simp only [decodeWord, decodeGroup8, hg, hn]
  fin_cases hv <;> rfl

theorem row_decodeWord_of_maskF0FF {w v : Word} (hr : ⟨0xF0FF, v⟩ ∈ opcodeMap) (h : w &&& 0xF0FF = v) :
    (decodeWord w).row = some ⟨0xF0FF, v⟩ := by
  have hv : v ∈ [0xE09E#16, 0xE0A1, 0xF007, 0xF00A, 0xF015, 0xF018, 0xF01E, 0xF029, 0xF030, 0xF033, 0xF055, 0xF065, 0xF075,
      0xF085] := by
    simpa [opcodeMap, opcodeRowsFlow, opcodeRowsAlu, opcodeRowsRest] using hr
  obtain ⟨hg, hnn⟩ := fields_of_maskF0FF h
  simp only [decodeWord, decodeGroupE, decodeGroupF, hg, hnn]
  fin_cases hv <;> rfl

theorem row_decodeWord_of_maskF000 {w v : Word} (hr : ⟨0xF000, v⟩ ∈ opcodeMap) (h : w &&& 0xF000 = v) :
    (decodeWord w).row = some ⟨0xF000, v⟩ := by
  have hv : v ∈ [0x1000#16, 0x2000, 0x3000, 0x4000, 0x6000, 0x7000, 0xA000, 0xB000, 0xC000, 0xD000] := by
    simpa [opcodeMap, opcodeRowsFlow, opcodeRowsAlu, opcodeRowsRest] using hr
  have hg := fieldG_of_maskF000 h
  simp only [decodeWord, hg]
  fin_cases hv <;> rfl

/-- A word that matches a row decodes to an instruction of that row (R93). -/
theorem row_decodeWord_of_accepts {w : Word} {r : OpcodeRow} (hr : r ∈ opcodeMap) (h : r.accepts w = true) :
    (decodeWord w).row = some r := by
  have hm := mask_of_mem_opcodeMap r hr
  obtain ⟨m, v⟩ := r
  have hw : w &&& m = v := by simpa [OpcodeRow.accepts] using h
  obtain rfl | rfl | rfl | rfl | rfl := hm
  · have hwv : w = v := BitVec.and_allOnes.symm.trans hw
    rw [hwv]
    exact row_decodeWord_value ⟨0xFFFF, v⟩ hr
  · exact row_decodeWord_of_maskFFF0 hr hw
  · exact row_decodeWord_of_maskF00F hr hw
  · exact row_decodeWord_of_maskF0FF hr hw
  · exact row_decodeWord_of_maskF000 hr hw

/-- A word that decodes to itself as unrecognised matches no row (R95). -/
theorem not_recognised_of_decodeWord {w : Word} (h : decodeWord w = .unrecognised w) : recognised w = false := by
  refine Bool.eq_false_iff.2 fun hrec => ?_
  obtain ⟨r, hr, hacc⟩ := recognised_iff.1 hrec
  have hrow := row_decodeWord_of_accepts hr hacc
  simp [h, Instr.row] at hrow

/-- Every word decodes to a well-formed instruction. -/
theorem wellFormed_decodeWord (w : Word) : (decodeWord w).wellFormed = true := by
  cases h : (decodeWord w).row with
  | some r => exact Instr.wellFormed_of_row h
  | none =>
    have hw := decodeWord_of_row_eq_none h
    simp [hw, Instr.wellFormed, not_recognised_of_decodeWord hw]

/-- Settles O6, from the two facts about the decoder. -/
theorem encodeGivesBackDecodedWord : Obligations.EncodeGivesBackDecodedWord :=
  fun w => ⟨wellFormed_decodeWord w, encode_decodeWord w⟩

/-- Settles O7: the decoder reaches every row, and the encoding of a decoded word lies in the row the decoder chose. -/
theorem decodeFollowsOpcodeMap : Obligations.DecodeFollowsOpcodeMap :=
  fun _ => ⟨fun _ hr => ⟨row_decodeWord_of_accepts hr, accepts_of_row_decodeWord⟩,
    decodeWord_of_not_recognised, not_recognised_of_decodeWord⟩

/-- Settles O8: the words are fixed, so the decoder evaluates on each. -/
theorem sampleWordsDecode : Obligations.SampleWordsDecode := by
  unfold Obligations.SampleWordsDecode
  decide

end Sys2Proof

namespace Sys2Proof.Machine

/-! ## Stopped cores -/

/-- An idle core keeps its state (R284). -/
theorem step_of_idle {s : State} (hf : s.fault = none) (hl : s.loaded = false) : step s = .next s := by
  simp [step, cycleIfRunning, hf, hl]

/-- A faulted core answers its fault (R272; log entry 9). -/
theorem step_of_faulted {s : State} {f : Fault} (hf : s.fault = some f) : step s = .fault f := by
  simp [step, cycleIfRunning, hf]

/-- Settles O10, one clause for each way in which a core is stopped. -/
theorem noCycleWhenIdleOrFaulted : Obligations.NoCycleWhenIdleOrFaulted :=
  fun _ => ⟨step_of_idle, fun _ => step_of_faulted⟩

/-! ## A cycle that goes on -/

/-- The state at the execute step, in terms of the state before the cycle (R66, R110, R111). -/
theorem State.latch_sampleKeys_eq (s : State) (w : Word) :
    s.sampleKeys.latch w = { s.sampleKeys with pc := s.pc + 2, opcode := w } := by
  rw [← s.sampleKeys_pc]
  rfl

/-- Settles O9: the two bytes at PC are the fetched word, and the rest is the execute step with the end of its cycle. -/
theorem stepRunsDecodedInstruction : Obligations.StepRunsDecodedInstruction := by
  unfold Obligations.StepRunsDecodedInstruction
  intro s i hl hf hpc hd
  have hi : decodeWord (wordOfBytes (s.byte s.pc.toNat) (s.byte (s.pc.toNat + 1))) = i := by
    simpa [decode] using hd
  rw [step_of_fetch hl hf (fetch_ok hpc), hi, State.latch_sampleKeys_eq]
  exact rfl

/-- A cycle whose execute step does not fault ends with the timer step and the frame emission (R114). -/
theorem step_of_exec_next {s t : State} {w : Word} (hl : s.loaded = true) (hf : s.fault = none) (hw : fetch s = .ok w)
    (h : exec (decodeWord w) (s.sampleKeys.latch w) = .next t) : step s = .next t.endCycle := by
  rw [step_of_fetch hl hf hw, runInstr, h]

/-- A timer goes down by one, and stays at 0 (R119). -/
theorem toNat_countDown (b : Byte) : (countDown b).toNat = b.toNat - 1 := by
  unfold countDown
  split
  · next h => simp [h]
  · next h => exact BitVec.toNat_sub_of_le (by bv_omega)

/-- The decrement that reaches 0 is that of a timer at 1 (R119). -/
theorem countDown_reaches_zero_iff (b : Byte) : b ≠ 0 ∧ countDown b = 0 ↔ b.toNat = 1 := by
  have h0 (c : Byte) : c = 0 ↔ c.toNat = 0 := BitVec.toNat_inj.symm
  rw [ne_eq, h0, h0, toNat_countDown]
  omega

/-- The end of a cycle emits the beep, then the frame (R114). -/
theorem State.endCycle_trace (s : State) : s.endCycle.trace =
    s.trace ++ (if s.st.toNat = 1 then [.beep] else []) ++ (if s.redraw then [.frame s.fb s.mode] else []) := by
  simp only [endCycle_eq, emitFrame_trace, timerStep_trace, timerStep_redraw, timerStep_fb, timerStep_mode,
    countDown_reaches_zero_iff]
  split_ifs <;> simp

/-- The end of a cycle writes the timers, REDRAW and the output trace (R119, R123). -/
theorem State.endCycle_unchanged (s : State) : Unchanged [.dt, .st, .redraw, .trace] s s.endCycle := by
  constructor <;> simp

/-- Settles O14, from what the end of a cycle does to the timers and the trace, and its frame. -/
theorem timerStepAfterEveryExecutedCycle : Obligations.TimerStepAfterEveryExecutedCycle := by
  unfold Obligations.TimerStepAfterEveryExecutedCycle
  intro s t w hl hf hw h
  exact ⟨t.endCycle, step_of_exec_next hl hf hw h, toNat_countDown t.dt, toNat_countDown t.st, rfl, t.endCycle_trace,
    t.endCycle_unchanged.sameOutside (.inr (by simp))⟩

/-! ## Words without effect -/

/-- The encoding line of a word that its rule writes out in full. -/
theorem encodedAs_word (v : Word) : EncodedAs 0xFFFF v (fun _ => decodeWord v) := fun w h => by
  rw [show w = v from BitVec.and_allOnes.symm.trans h]

/-- The encoding line of 00CN (R139). -/
theorem encodedAs_scd : EncodedAs 0xFFF0 0x00C0 (fun w => .scd (fieldN w)) := fun w h => by
  obtain ⟨hg, hx, hy⟩ := fields_of_maskFFF0 h
  have hw : encode (.scd (fieldN w)) = w := encode_scd_fieldN (congrArg BitVec.toNat hg) hx hy
  exact (congrArg decodeWord hw.symm).trans (decodeWord_encode rfl)

/-- 00FB, 00FC, 00CN and an unrecognised word do nothing in the execute step (R116, R137 to R139). -/
theorem exec_of_word_without_effect {w : Word}
    (h : w = 0x00FB ∨ w = 0x00FC ∨ w &&& 0xFFF0 = 0x00C0 ∨ recognised w = false) (s : State) :
    exec (decodeWord w) s = .next s := by
  obtain rfl | rfl | h | h := h
  · rfl
  · rfl
  · rw [encodedAs_scd w h]; rfl
  · rw [decodeWord_of_not_recognised h]; rfl

/-- A cycle around an execute step that does nothing: key sample, fetch and end of the cycle. -/
theorem State.endCycle_latch_sampleKeys_unchanged (s : State) (w : Word) :
    Unchanged [.pc, .opcode, .dt, .st, .keys, .keyInput, .redraw, .trace] s (s.sampleKeys.latch w).endCycle := by
  constructor <;> simp

/-- Settles O16: the execute step leaves its state, so the cycle is the key sample, the fetch and the end of the cycle. -/
theorem unimplementedAndUnrecognisedWordsDoNothing : Obligations.UnimplementedAndUnrecognisedWordsDoNothing := by
  unfold Obligations.UnimplementedAndUnrecognisedWordsDoNothing
  refine ⟨encodedAs_word 0x00FB, encodedAs_word 0x00FC, encodedAs_scd, fun _ => decodeWord_of_not_recognised, by decide,
    fun _ _ _ => ⟨rfl, rfl, rfl, rfl⟩, fun s w hl hf hw hword => ?_⟩
  have hstep := step_of_exec_next hl hf hw (exec_of_word_without_effect hword _)
  have hframe := (s.endCycle_latch_sampleKeys_unchanged w).sameOutside (.inr (by simp))
  exact ⟨_, hstep, by simp, rfl, by simp [toNat_countDown], by simp [toNat_countDown], hframe⟩

/-! ## Where a fault comes from

What each operation that can fault says with its fault; every other instruction goes on or is refused. -/

theorem State.pushAndJump_fault {s : State} {target : Word} {f : Fault} (h : s.pushAndJump target = .fault f) :
    f = .stackOverflow s.pc ∧ s.sp = 16 := by
  obtain ⟨hsp, he⟩ | ⟨_, he⟩ | ⟨-, he⟩ := s.pushAndJump_cases target
  all_goals cases he.symm.trans h
  exact ⟨rfl, hsp⟩

theorem State.popPc_fault {s : State} {f : Fault} (h : s.popPc = .fault f) : f = .stackUnderflow s.pc ∧ s.sp = 0 := by
  obtain ⟨hsp, he⟩ | ⟨_, -, -, he⟩ | ⟨-, he⟩ := s.popPc_cases
  all_goals cases he.symm.trans h
  exact ⟨rfl, hsp⟩

theorem keyIndex_eq_error {v : Byte} {f : Fault} (h : keyIndex v = .error f) :
    f = .keyIndexOutOfRange v ∧ 15 < v.toNat := by
  by_cases hv : v.toNat < 16
  · simp [keyIndex_ok hv] at h
  · rw [keyIndex_error hv] at h
    cases h
    exact ⟨rfl, by omega⟩

theorem loadBytes_eq_error {s : State} {a n : Nat} {f : Fault} (h : loadBytes s a n = .error f) :
    ∃ b, f = .memOutOfRange b ∧ s.cfg.memSize.bytes ≤ b := by
  obtain ⟨-, he⟩ | ⟨-, he⟩ := loadBytes_cases s a n
  all_goals cases he.symm.trans h
  exact ⟨_, rfl, le_max_right _ _⟩

theorem storeBytes_eq_error {s : State} {a : Nat} {bs : List Byte} {f : Fault} (h : storeBytes s a bs = .error f) :
    ∃ b, f = .memOutOfRange b ∧ s.cfg.memSize.bytes ≤ b := by
  obtain ⟨-, he⟩ | ⟨-, he⟩ := storeBytes_cases s a bs
  all_goals cases he.symm.trans h
  exact ⟨_, rfl, le_max_right _ _⟩

theorem orFault_eq_fault {r : Except Fault State} {f : Fault} (h : orFault r = .fault f) : r = .error f := by
  cases r <;> cases h
  rfl

theorem execSkp_fault {x : Nibble} {s : State} {f : Fault} (h : execSkp x s = .fault f) : keyIndex (s.reg x) = .error f := by
  unfold execSkp at h
  split at h <;> cases h
  assumption

theorem execSknp_fault {x : Nibble} {s : State} {f : Fault} (h : execSknp x s = .fault f) :
    keyIndex (s.reg x) = .error f := by
  unfold execSknp at h
  split at h <;> cases h
  assumption

theorem execDrw_fault {x y n : Nibble} {s : State} {f : Fault} (h : execDrw x y n s = .fault f) :
    loadBytes s s.index (spriteBytes s.mode n) = .error f := by
  unfold execDrw at h
  split at h <;> cases h
  assumption

theorem execLdMemVx_fault {x : Nibble} {s : State} {f : Fault} (h : execLdMemVx x s = .fault f) :
    storeBytes s s.index (s.regsUpTo x) = .error f := by
  unfold execLdMemVx at h
  split at h <;> cases h
  assumption

theorem execLdVxMem_fault {x : Nibble} {s : State} {f : Fault} (h : execLdVxMem x s = .fault f) :
    loadBytes s s.index (x.toNat + 1) = .error f := by
  unfold execLdVxMem at h
  split at h <;> cases h
  assumption

/-- The shape of FX75 and FX85: the range check, and a transfer that cannot fault (R256). -/
theorem fault_of_rplInRange {x : Nibble} {t : State} {f : Fault}
    (h : (if rplInRange x then .next t else .fault (.rplIndexOutOfRange x) : Host.Outcome State Fault Refusal) = .fault f) :
    f = .rplIndexOutOfRange x ∧ 7 < x.toNat := by
  split at h
  · cases h
  · next hx =>
    cases h
    exact ⟨rfl, by simpa [rplInRange] using hx⟩

theorem execAddI_ne_fault (x : Nibble) (s : State) (f : Fault) : execAddI x s ≠ .fault f := by
  unfold execAddI
  split <;> simp

/-- Settles O53, from the fault of each operation that can raise one. -/
theorem faultsComeFromTheirInstructions : Obligations.FaultsComeFromTheirInstructions := by
  unfold Obligations.FaultsComeFromTheirInstructions
  intro i s f h
  cases i with
  | drw x y n =>
    obtain ⟨b, hf, hb⟩ := loadBytes_eq_error (execDrw_fault h)
    exact .inl ⟨b, hf, hb, .inl ⟨x, y, n, rfl⟩⟩
  | ldB x =>
    obtain ⟨b, hf, hb⟩ := storeBytes_eq_error (orFault_eq_fault h)
    exact .inl ⟨b, hf, hb, .inr (.inl ⟨x, rfl⟩)⟩
  | ldMemVx x =>
    obtain ⟨b, hf, hb⟩ := storeBytes_eq_error (execLdMemVx_fault h)
    exact .inl ⟨b, hf, hb, .inr (.inr (.inl ⟨x, rfl⟩))⟩
  | ldVxMem x =>
    obtain ⟨b, hf, hb⟩ := loadBytes_eq_error (execLdVxMem_fault h)
    exact .inl ⟨b, hf, hb, .inr (.inr (.inr ⟨x, rfl⟩))⟩
  | call nnn =>
    obtain ⟨hf, hsp⟩ := State.pushAndJump_fault h
    exact .inr (.inl ⟨hf, hsp, nnn, rfl⟩)
  | ret =>
    obtain ⟨hf, hsp⟩ := State.popPc_fault h
    exact .inr (.inr (.inl ⟨hf, hsp, rfl⟩))
  | skp x =>
    obtain ⟨hf, hx⟩ := keyIndex_eq_error (execSkp_fault h)
    exact .inr (.inr (.inr (.inl ⟨x, hf, hx, .inl rfl⟩)))
  | sknp x =>
    obtain ⟨hf, hx⟩ := keyIndex_eq_error (execSknp_fault h)
    exact .inr (.inr (.inr (.inl ⟨x, hf, hx, .inr rfl⟩)))
  | ldRVx x =>
    obtain ⟨hf, hx⟩ := fault_of_rplInRange h
    exact .inr (.inr (.inr (.inr ⟨x, hf, hx, .inl rfl⟩)))
  | ldVxR x =>
    obtain ⟨hf, hx⟩ := fault_of_rplInRange h
    exact .inr (.inr (.inr (.inr ⟨x, hf, hx, .inr rfl⟩)))
  | addI x => exact absurd h (execAddI_ne_fault x s f)
  | _ => cases h

/-! ## The driver's loop -/

theorem State.running_iff (s : State) : s.running = true ↔ s.loaded = true ∧ s.fault = none := by
  simp [State.running]

/-- The loop runs nothing on an idle or faulted core (R122). -/
theorem runCycles_of_stopped {s : State} (h : s.loaded = false ∨ s.fault ≠ none) (n : Nat) : runCycles n s = .next s := by
  have hr : s.running = false := s.not_running_iff.2 h
  cases n with
  | zero => rfl
  | succ n => simp [runCycles, hr]

theorem runCycles_succ_of_next {s u : State} (hr : s.running = true) (h : step s = .next u) (n : Nat) :
    runCycles (n + 1) s = runCycles n u := by
  simp [runCycles, hr, ← step_of_running hr, h]

/-- A cycle that faults ends the loop, with the fault recorded (R272). -/
theorem runCycles_succ_of_fault {s : State} {f : Fault} (hr : s.running = true) (h : step s = .fault f) (n : Nat) :
    runCycles (n + 1) s = .next (s.raise f) := by
  simp [runCycles, hr, ← step_of_running hr, h]

theorem runCycles_succ_of_refused {s : State} {r : Refusal} (hr : s.running = true) (h : step s = .refused r) (n : Nat) :
    runCycles (n + 1) s = .refused r := by
  simp [runCycles, hr, ← step_of_running hr, h]

/-- The driver runs no cycle after a fault (R272). -/
theorem State.raise_stopped (s : State) (f : Fault) : (s.raise f).loaded = false ∨ (s.raise f).fault ≠ none :=
  .inr (Option.some_ne_none f)

/-- The loop goes on from where it stands (R122). -/
theorem runCycles_add {m : Nat} {s t : State} (h : runCycles m s = .next t) (n : Nat) :
    runCycles (m + n) s = runCycles n t := by
  induction m generalizing s with
  | zero =>
    cases h
    rw [Nat.zero_add]
  | succ m ih =>
    by_cases hr : s.running = true
    · rw [Nat.succ_add]
      cases hs : step s with
      | next u =>
        rw [runCycles_succ_of_next hr hs] at h ⊢
        exact ih h
      | fault f =>
        rw [runCycles_succ_of_fault hr hs] at h ⊢
        cases h
        exact (runCycles_of_stopped (s.raise_stopped f) n).symm
      | refused r =>
        rw [runCycles_succ_of_refused hr hs] at h
        cases h
    · have hstop := s.not_running_iff.1 (Bool.eq_false_iff.2 hr)
      rw [runCycles_of_stopped hstop] at h ⊢
      cases h
      exact (runCycles_of_stopped hstop n).symm

/-- Settles O58, from one cycle of the loop, its stop and its composition. -/
theorem driverLoopComposes : Obligations.DriverLoopComposes := by
  unfold Obligations.DriverLoopComposes
  refine ⟨fun _ => ⟨rfl, rfl, rfl⟩, fun n s hl hf => ?_, fun n s h => runCycles_of_stopped h n, fun m n s t h => ?_⟩
  · have hr : s.running = true := s.running_iff.2 ⟨hl, hf⟩
    exact ⟨fun _ h => runCycles_succ_of_next hr h n, fun _ h => runCycles_succ_of_fault hr h n,
      fun _ h => runCycles_succ_of_refused hr h n⟩
  · exact ⟨runCycles_add h n, fun ht => (runCycles_add h n).trans (runCycles_of_stopped (.inl ht) n)⟩

/-- No load clears FAULT (R272). -/
theorem loadGame_fault (image : List Byte) (s : State) : (loadGame image s).2.fault = s.fault := by
  unfold loadGame
  split <;> rfl

/-- Settles O57: the loop runs nothing on a stopped core, and a load keeps FAULT. -/
theorem tickOfStoppedCoreDoesNothing : Obligations.TickOfStoppedCoreDoesNothing := by
  unfold Obligations.TickOfStoppedCoreDoesNothing
  refine fun s image => ⟨fun h => runCycles_of_stopped h _, fun h => runCycles_of_stopped (.inr ?_) _⟩
  rwa [loadGame_fault]

/-- Settles O59: the first cycle ends the loop in a state that holds the fault, which stops the driver. -/
theorem faultingTickRecordsFault : Obligations.FaultingTickRecordsFault := by
  unfold Obligations.FaultingTickRecordsFault
  intro s f hl hf hspeed h
  obtain ⟨n, hn⟩ : ∃ n, 9 * s.cfg.speed = n + 1 := Nat.exists_eq_add_one.2 (by omega)
  have htick : tick s = .next (s.raise f) := by
    rw [tick, hn, runCycles_succ_of_fault (s.running_iff.2 ⟨hl, hf⟩) h]
  exact ⟨s.raise f, htick, rfl, rfl, rfl, runCycles_of_stopped (s.raise_stopped f) _, step_of_faulted rfl⟩

end Sys2Proof.Machine

namespace Sys2Proof.Machine

/-! ## Group 0 -/

/-- Settles O17: the cleared framebuffer lights no cell. -/
theorem clsClearsFramebuffer : Obligations.ClsClearsFramebuffer :=
  ⟨encodedAs_word 0x00E0, fun s => ⟨s.clearScreen, rfl, fun _ => rfl, rfl, exec_sameOutside (i := .cls) rfl⟩⟩

/-- A return with no entry in use faults with the advanced PC (R132). -/
theorem exec_ret_of_sp_zero {s : State} (hsp : s.sp = 0) : exec .ret s = .fault (.stackUnderflow s.pc) := by
  obtain ⟨-, he⟩ | ⟨_, hpos, -⟩ | ⟨h16, -⟩ := s.popPc_cases
  · exact he
  · simp [hsp] at hpos
  · simp [hsp] at h16

/-- Settles O18, from the two legal outcomes of a return and the frame of 00EE. -/
theorem retPopsReturnAddress : Obligations.RetPopsReturnAddress := by
  refine ⟨encodedAs_word 0x00EE, fun s => ⟨exec_ret_of_sp_zero, fun k hk => ?_⟩⟩
  obtain ⟨t, ht, hpc, hsp⟩ := exec_ret_of_sp k.isLt hk
  have hlow : t.sp.toNat = k.val := by
    rw [hsp]
    bv_omega
  exact ⟨t, ht, hlow, hpc, exec_sameOutside ht⟩

/-- Naming the current mode changes nothing (R134). -/
theorem State.setMode_of_mode_eq {s : State} {m : Mode} (h : s.mode = m) : s.setMode m = s := by
  subst h
  simp [State.setMode]

/-- A mode switch clears the framebuffer unless it names the current mode (R134). -/
theorem State.lit_setMode_fb (s : State) (m : Mode) (k : Nat) :
    (s.setMode m).fb.lit k = (s.fb.lit k && decide (s.mode = m)) := by
  by_cases h : s.mode = m
  · simp [h]
  · simp [h, Framebuffer.lit]

/-- Settles O19: both instructions are the one mode switch, each to its own mode. -/
theorem modeSwitchClearsFramebuffer : Obligations.ModeSwitchClearsFramebuffer := by
  refine ⟨encodedAs_word 0x00FF, encodedAs_word 0x00FE, fun s => ⟨?high, ?low⟩⟩
  case high =>
    exact ⟨s.setMode .high, rfl, rfl, s.lit_setMode_fb .high, State.setMode_of_mode_eq, exec_sameOutside (i := .high) rfl⟩
  case low =>
    exact ⟨s.setMode .low, rfl, rfl, s.lit_setMode_fb .low, State.setMode_of_mode_eq, exec_sameOutside (i := .low) rfl⟩

/-- In the low font's area, an address that holds no stored byte reads as FONT_LO (R62, R80). -/
theorem State.byte_unlisted_fontLo {s : State} {k : Fin 80} (h : s.mem.get? k = none) : s.byte k = s.cfg.fontLo[k] := by
  simp [State.byte, State.initByte, h]

/-- In the big font's area, an address that holds no stored byte reads as FONT_HI (R62, R80). -/
theorem State.byte_unlisted_fontHi {s : State} {k : Fin 160} (h : s.mem.get? (80 + k) = none) :
    s.byte (80 + k) = s.cfg.fontHi[k] := by
  simp [State.byte, State.initByte, h, show 80 + k.val < 240 by omega]

/-- Settles O20: memory lists nothing after Init, so every byte reads as its font or its draw. -/
theorem exitResetsAndIdles : Obligations.ExitResetsAndIdles := by
  refine ⟨encodedAs_word 0x00FD, fun s => ⟨{ s.init with loaded := false }, rfl, ?_⟩⟩
  have hentry (k : Fin 16) : s.init.stack[k] = 0 ∧ s.init.keys[k] = false :=
    ⟨Vector.getElem_replicate _, Vector.getElem_replicate _⟩
  exact ⟨rfl, rfl, s.init_reg, rfl, rfl, hentry, rfl, rfl, rfl, fun _ => rfl, rfl, rfl,
    fun _ => State.byte_unlisted_fontLo rfl, fun _ => State.byte_unlisted_fontHi rfl, rfl,
    fun _ => State.byte_unlisted rfl, rfl, exec_sameOutside (i := .exit) rfl⟩

end Sys2Proof.Machine

namespace Sys2Proof.Machine

/-! ## Encoding lines

A word that matches a rule's mask is put together again from the group nibble of the rule and its own fields, so it is the encoding of
the instruction built from them (R91, R94). -/

/-- The encoding line of a rule with an address NNN. -/
theorem encodedAs_addr {v : Word} {build : Addr12 → Instr}
    (h : ∀ nnn, (build nnn).wellFormed = true ∧ encode (build nnn) = fieldG v ++ nnn) :
    EncodedAs 0xF000 v (fun w => build (fieldNNN w)) := fun w hw => by
  obtain ⟨hwf, henc⟩ := h (fieldNNN w)
  have hword : encode (build (fieldNNN w)) = w :=
    henc.trans (addr_append_eq (congrArg BitVec.toNat (fieldG_of_maskF000 hw)) rfl)
  exact (congrArg decodeWord hword.symm).trans (decodeWord_encode hwf)

/-- The encoding line of a rule with a register X and a byte NN. -/
theorem encodedAs_byte {v : Word} {build : Nibble → Byte → Instr}
    (h : ∀ x nn, (build x nn).wellFormed = true ∧ encode (build x nn) = fieldG v ++ x ++ nn) :
    EncodedAs 0xF000 v (fun w => build (fieldX w) (fieldNN w)) := fun w hw => by
  obtain ⟨hwf, henc⟩ := h (fieldX w) (fieldNN w)
  have hword : encode (build (fieldX w) (fieldNN w)) = w :=
    henc.trans (byte_append_eq (congrArg BitVec.toNat (fieldG_of_maskF000 hw)) rfl)
  exact (congrArg decodeWord hword.symm).trans (decodeWord_encode hwf)

/-- The encoding line of a rule with two registers X and Y and a fixed last nibble. -/
theorem encodedAs_registers {v : Word} {build : Nibble → Nibble → Instr}
    (h : ∀ x y, (build x y).wellFormed = true ∧ encode (build x y) = fieldG v ++ x ++ y ++ fieldN v) :
    EncodedAs 0xF00F v (fun w => build (fieldX w) (fieldY w)) := fun w hw => by
  obtain ⟨hwf, henc⟩ := h (fieldX w) (fieldY w)
  obtain ⟨hg, hn⟩ := fields_of_maskF00F hw
  have hword : encode (build (fieldX w) (fieldY w)) = w :=
    henc.trans (nibbles_append_eq (congrArg BitVec.toNat hg) (congrArg BitVec.toNat hn))
  exact (congrArg decodeWord hword.symm).trans (decodeWord_encode hwf)

/-! ## Jumps and calls -/

/-- An address of 12 bits keeps its value as a word (R92). -/
theorem addrOf_toNat (nnn : Addr12) : (addrOf nnn).toNat = nnn.toNat := by
  rw [addrOf, BitVec.toNat_setWidth_of_le (by decide)]

/-- Settles O21: the target is the address zero-extended, and PC is all that 1NNN writes. -/
theorem jumpSetsPc : Obligations.JumpSetsPc :=
  ⟨encodedAs_addr fun _ => ⟨rfl, rfl⟩,
    fun s nnn => ⟨{ s with pc := addrOf nnn }, rfl, addrOf_toNat nnn, exec_sameOutside (i := .jp nnn) rfl⟩⟩

/-- A call with 16 entries in use faults with the advanced PC (R152). -/
theorem exec_call_of_sp_full {s : State} (nnn : Addr12) (hsp : s.sp = 16) :
    exec (.call nnn) s = .fault (.stackOverflow s.pc) := by
  obtain ⟨-, he⟩ | ⟨hlt, -⟩ | ⟨hgt, -⟩ := s.pushAndJump_cases (addrOf nnn)
  · exact he
  · bv_omega
  · bv_omega

/-- A call with `k` entries in use pushes the advanced PC as entry `k` and jumps (R152). -/
theorem exec_call_of_sp {s : State} {k : Fin 16} (nnn : Addr12) (hsp : s.sp.toNat = k.val) :
    exec (.call nnn) s = .next { s with stack := s.stack.set k s.pc, sp := s.sp + 1, pc := addrOf nnn } := by
  obtain ⟨h16, -⟩ | ⟨_, he⟩ | ⟨h16, -⟩ := s.pushAndJump_cases (addrOf nnn)
  · bv_omega
  · simp only [hsp] at he
    exact he
  · omega

/-- Settles O22, from the two legal outcomes of a call and the frame of 2NNN. -/
theorem callPushesReturnAddress : Obligations.CallPushesReturnAddress := by
  refine ⟨encodedAs_addr fun _ => ⟨rfl, rfl⟩, fun s nnn => ⟨exec_call_of_sp_full nnn, fun k hk => ?_⟩⟩
  have hcall := exec_call_of_sp nnn hk
  have hsp : (s.sp + 1).toNat = k.val + 1 := by bv_omega
  have hother (j : Fin 16) (hj : j ≠ k) : (s.stack.set k s.pc)[j] = s.stack[j] :=
    Vector.getElem_set_ne _ _ fun h => hj (Fin.ext h.symm)
  exact ⟨_, hcall, Vector.getElem_set_self _, hother, hsp, addrOf_toNat nnn, exec_sameOutside hcall⟩

/-! ## Conditional skips -/

/-- The skip moves PC on by 2 modulo 2^16 when its condition holds (R151). -/
theorem State.skipIf_pc_toNat (s : State) (c : Bool) :
    (s.skipIf c).pc.toNat = (s.pc.toNat + if c then 2 else 0) % 65536 := by
  cases c
  · exact (Nat.mod_eq_of_lt s.pc.isLt).symm
  · exact BitVec.toNat_add s.pc 2

/-- What a skip instruction does, once its condition is known to be `c` (R151). -/
theorem exec_skip {i : Instr} {s : State} {c : Bool} {d : Nat} (h : exec i s = .next (s.skipIf c))
    (hd : (if c then 2 else 0) = d) :
    ∃ t, exec i s = .next t ∧ t.pc.toNat = (s.pc.toNat + d) % 65536 ∧ SameOutside [.pc] s t :=
  ⟨s.skipIf c, h, hd ▸ s.skipIf_pc_toNat c, (s.skipIf_unchanged c).sameOutside (.inr (by simp))⟩

/-- Settles O25: both instructions are the one skip, on a condition and on its negation. -/
theorem skipComparesWithImmediate : Obligations.SkipComparesWithImmediate := by
  refine ⟨encodedAs_byte fun _ _ => ⟨rfl, rfl⟩, encodedAs_byte fun _ _ => ⟨rfl, rfl⟩, fun s x nn => ⟨?eq, ?ne⟩⟩
  case eq => exact exec_skip rfl (by simp)
  case ne => exact exec_skip rfl (by simp)

/-- A word of group 5 or 9 whose last nibble is not 0 is unrecognised (R155, R156). -/
theorem decodeWord_of_fieldN_ne_zero {w : Word} (hg : fieldG w = 5 ∨ fieldG w = 9) (hn : fieldN w ≠ 0) :
    decodeWord w = .unrecognised w := by
  obtain hg | hg := hg
  · simpa [decodeWord, hg] using hn
  · simpa [decodeWord, hg] using hn

/-- Settles O26: the same two skips, and the last nibble of groups 5 and 9. -/
theorem skipComparesRegisters : Obligations.SkipComparesRegisters := by
  refine ⟨encodedAs_registers fun _ _ => ⟨rfl, rfl⟩, encodedAs_registers fun _ _ => ⟨rfl, rfl⟩,
    fun w hw => decodeWord_of_fieldN_ne_zero (hw.imp fieldG_of_maskF000 fieldG_of_maskF000), fun s x y => ⟨?eq, ?ne⟩⟩
  case eq => exact exec_skip rfl (by simp)
  case ne => exact exec_skip rfl (by simp)

end Sys2Proof.Machine

namespace Sys2Proof.Machine

/-! ## Register loads, copies and logic -/

/-- The frame of a register write. -/
theorem State.setReg_frame (s : State) (x : Nibble) (b : Byte) :
    RegsSame [x] s (s.setReg x b) ∧ SameOutside [.v] s (s.setReg x b) := by
  refine ⟨fun r hr => ?_, (s.setReg_unchanged x b).sameOutside (.inr (by simp))⟩
  exact s.reg_setReg_ne b (List.ne_of_not_mem_cons hr)

/-- Settles O27: each is one register write, whose frame has no flag in it. -/
theorem immediateLoadAndAdd : Obligations.ImmediateLoadAndAdd := by
  refine ⟨encodedAs_byte fun _ _ => ⟨rfl, rfl⟩, encodedAs_byte fun _ _ => ⟨rfl, rfl⟩, fun s x nn => ⟨?load, ?add⟩⟩
  case load => exact ⟨s.setReg x nn, rfl, s.reg_setReg_same x nn, s.setReg_frame x nn⟩
  case add =>
    have hsum : ((s.setReg x (s.reg x + nn)).reg x).toNat = ((s.reg x).toNat + nn.toNat) % 256 := by
      rw [State.reg_setReg_same, BitVec.toNat_add]
    exact ⟨_, rfl, hsum, s.setReg_frame x _⟩

/-- Settles O28: each is one register write, of a value whose bits the operation gives one by one. -/
theorem copyAndLogicWriteOnlyDestination : Obligations.CopyAndLogicWriteOnlyDestination := by
  refine ⟨encodedAs_registers fun _ _ => ⟨rfl, rfl⟩, encodedAs_registers fun _ _ => ⟨rfl, rfl⟩,
    encodedAs_registers fun _ _ => ⟨rfl, rfl⟩, encodedAs_registers fun _ _ => ⟨rfl, rfl⟩,
    fun s x y => ⟨?copy, ?or, ?and, ?xor⟩⟩
  case copy => exact ⟨_, rfl, s.reg_setReg_same x _, s.setReg_frame x _⟩
  case or => exact ⟨_, rfl, fun b _ => by rw [State.reg_setReg_same, BitVec.getLsbD_or], s.setReg_frame x _⟩
  case and => exact ⟨_, rfl, fun b _ => by rw [State.reg_setReg_same, BitVec.getLsbD_and], s.setReg_frame x _⟩
  case xor => exact ⟨_, rfl, fun b _ => by rw [State.reg_setReg_same, BitVec.getLsbD_xor], s.setReg_frame x _⟩

/-! ## Results with a flag

The five operations that write VF as a flag (R177, R180 to R183) end in the same write of a result and its flag (R172), so each needs
only the value of its result and of its flag. -/

/-- The destination ends as the result unless it is VF and the flag is written last (R172). -/
theorem State.writeRF_reg_result {s : State} {x : Nibble} (r : Byte) (f : Bool)
    (h : x ≠ 15 ∨ s.cfg.vfOrder = .resultLast) : (s.writeRF x r f).reg x = r := by
  rw [State.reg_writeRF]
  obtain hx | ho := h
  · cases s.cfg.vfOrder with
    | flagLast => exact (if_neg hx).trans (if_pos rfl)
    | resultLast => exact if_pos rfl
  · rw [ho]
    exact if_pos rfl

/-- VF ends as the flag unless it is the destination and the result is written last (R172). -/
theorem State.writeRF_reg_flag {s : State} {x : Nibble} (r : Byte) (f : Bool)
    (h : x ≠ 15 ∨ s.cfg.vfOrder = .flagLast) : (s.writeRF x r f).reg 15 = flagByte f := by
  rw [State.reg_writeRF]
  obtain hx | ho := h
  · cases s.cfg.vfOrder with
    | flagLast => exact if_pos rfl
    | resultLast => exact (if_neg hx.symm).trans (if_pos rfl)
  · rw [ho]
    exact if_pos rfl

/-- The frame of the write of a result and its flag. -/
theorem State.writeRF_frame (s : State) (x : Nibble) (r : Byte) (f : Bool) :
    RegsSame [x, 15] s (s.writeRF x r f) ∧ SameOutside [.v] s (s.writeRF x r f) := by
  refine ⟨fun k hk => ?_, (s.writeRF_unchanged x r f).sameOutside (.inr (by simp))⟩
  obtain ⟨hx, hf⟩ : k ≠ x ∧ k ≠ 15 := by simpa using hk
  rw [State.reg_writeRF]
  cases s.cfg.vfOrder with
  | flagLast => exact (if_neg hf).trans (if_neg hx)
  | resultLast => exact (if_neg hx).trans (if_neg hf)

theorem flagByte_toNat (f : Bool) : (flagByte f).toNat = f.toNat := by
  cases f <;> rfl

/-- What an instruction with a flag does, once the values of its result and its flag are known (R172). -/
theorem exec_writeRF {i : Instr} {s : State} {x : Nibble} {r : Byte} {f : Bool} {result flag : Nat}
    (h : exec i s = .next (s.writeRF x r f)) (hr : r.toNat = result) (hf : f.toNat = flag) :
    ∃ t, exec i s = .next t ∧ (x ≠ 15 ∨ s.cfg.vfOrder = .resultLast → (t.reg x).toNat = result) ∧
      (x ≠ 15 ∨ s.cfg.vfOrder = .flagLast → (t.reg 15).toNat = flag) ∧ RegsSame [x, 15] s t ∧ SameOutside [.v] s t := by
  refine ⟨s.writeRF x r f, h, fun ho => ?_, fun ho => ?_, s.writeRF_frame x r f⟩
  · rw [State.writeRF_reg_result r f ho, hr]
  · rw [State.writeRF_reg_flag r f ho, flagByte_toNat, hf]

/-- The value of a flag whose condition is known. -/
theorem flag_toNat_of_iff {f : Bool} {p : Prop} [Decidable p] (h : f = true ↔ p) : f.toNat = if p then 1 else 0 := by
  simp only [← h]
  cases f <;> rfl

theorem carryFlag_iff (a b : Byte) : carryFlag a b = true ↔ a.toNat + b.toNat > 255 :=
  decide_eq_true_iff

/-- Settles O29: the result is the sum modulo 256 and the flag is its carry. -/
theorem addSetsCarry : Obligations.AddSetsCarry :=
  ⟨encodedAs_registers fun _ _ => ⟨rfl, rfl⟩,
    fun _ _ _ => exec_writeRF rfl (BitVec.toNat_add ..) (flag_toNat_of_iff (carryFlag_iff ..))⟩

/-- There is no borrow when the subtrahend is the smaller, and on equal operands when the parameter counts them in (R178). -/
theorem noBorrow_iff (p : Config.SubFlag) (m b : Byte) :
    noBorrow p m b = true ↔ b.toNat < m.toNat ∨ (m = b ∧ p = .ge) := by
  cases p with
  | ge => simp [noBorrow, Nat.le_iff_lt_or_eq, BitVec.toNat_inj, @eq_comm _ b m]
  | gt => simp [noBorrow]

/-- The difference modulo 256, without going below 0 (R184). -/
theorem byte_sub_toNat (m b : Byte) : (m - b).toNat = (m.toNat + 256 - b.toNat) % 256 := by
  bv_omega

/-- Settles O30: the two subtractions are one, with the operands exchanged. -/
theorem subtractSetsNoBorrow : Obligations.SubtractSetsNoBorrow := by
  refine ⟨encodedAs_registers fun _ _ => ⟨rfl, rfl⟩, encodedAs_registers fun _ _ => ⟨rfl, rfl⟩, fun s x y => ⟨?sub, ?subn⟩⟩
  case sub => exact exec_writeRF rfl (byte_sub_toNat ..) (flag_toNat_of_iff (noBorrow_iff ..))
  case subn => exact exec_writeRF rfl (byte_sub_toNat ..) (flag_toNat_of_iff (by rw [noBorrow_iff, @eq_comm _ (s.reg y)]))

/-- A shift left by one doubles modulo 256 (R183). -/
theorem byte_shiftLeft_one_toNat (src : Byte) : (src <<< 1).toNat = src.toNat * 2 % 256 := by
  rw [BitVec.toNat_shiftLeft, Nat.shiftLeft_eq]

/-- The bit 8XY6 shifts out is the remainder of the halving (R181). -/
theorem shiftedRightBit_toNat (src : Byte) : (shiftedRightBit src).toNat = src.toNat % 2 := by
  have hbit : (shiftedRightBit src).toNat = src.toNat / 1 % 2 := Nat.toNat_testBit src.toNat 0
  omega

/-- The bit 8XYE shifts out is set from 128 on (R183). -/
theorem shiftedLeftBit_toNat (src : Byte) : (shiftedLeftBit src).toNat = src.toNat / 128 := by
  have hbit : (shiftedLeftBit src).toNat = src.toNat / 128 % 2 := Nat.toNat_testBit src.toNat 7
  omega

/-- Settles O31: a shift by one halves or doubles the source. -/
theorem shiftSetsShiftedBit : Obligations.ShiftSetsShiftedBit := by
  refine ⟨encodedAs_registers fun _ _ => ⟨rfl, rfl⟩, encodedAs_registers fun _ _ => ⟨rfl, rfl⟩, ?_⟩
  rintro s x y src rfl
  refine ⟨?right, ?left⟩
  case right => exact exec_writeRF rfl (BitVec.toNat_ushiftRight ..) (shiftedRightBit_toNat _)
  case left => exact exec_writeRF rfl (byte_shiftLeft_one_toNat _) (shiftedLeftBit_toNat _)

end Sys2Proof.Machine

namespace Sys2Proof.Machine

/-! ## Index, offset jump, random -/

/-- Settles O32: the address is zero-extended, and I is all that ANNN writes. -/
theorem loadIndexSetsI : Obligations.LoadIndexSetsI :=
  ⟨encodedAs_addr fun _ => ⟨rfl, rfl⟩,
    fun s nnn => ⟨{ s with i := addrOf nnn }, rfl, addrOf_toNat nnn, exec_sameOutside (i := .ldI nnn) rfl⟩⟩

/-- The high nibble of NNN is the X field (R92, R201). -/
theorem jumpRegister_fieldNNN (w : Word) : jumpRegister (fieldNNN w) = fieldX w := by
  rw [jumpRegister, fieldNNN_eq, BitVec.extractLsb'_append_eq_left]

/-- The high nibble of an address is its value without the low byte. -/
theorem jumpRegister_eq_ofNat (nnn : Addr12) : jumpRegister nnn = BitVec.ofNat 4 (nnn.toNat / 256) := by
  rw [jumpRegister, BitVec.extractLsb', Nat.shiftRight_eq_div_pow]

/-- A byte keeps its value as a word (R92). -/
theorem wordOf_toNat (b : Byte) : (wordOf b).toNat = b.toNat := by
  rw [wordOf, BitVec.toNat_setWidth_of_le (by decide)]

/-- An address plus a byte fits 16 bits (R201). -/
theorem addrOf_add_wordOf_toNat (nnn : Addr12) (b : Byte) : (addrOf nnn + wordOf b).toNat = nnn.toNat + b.toNat := by
  rw [BitVec.toNat_add, addrOf_toNat, wordOf_toNat]
  omega

/-- Settles O33: the sum does not wrap, and PC is all that BNNN writes. -/
theorem offsetJumpAddsRegister : Obligations.OffsetJumpAddsRegister := by
  refine ⟨encodedAs_addr fun _ => ⟨rfl, rfl⟩, jumpRegister_fieldNNN, fun s nnn => ?_⟩
  rw [← jumpRegister_eq_ofNat]
  exact ⟨{ s with pc := addrOf nnn + wordOf (s.jumpOffset nnn) }, rfl, addrOf_add_wordOf_toNat nnn _,
    exec_sameOutside (i := .jpV0 nnn) rfl⟩

/-- Settles O34: a draw from the oracle, then one register write. -/
theorem randomByteIsMasked : Obligations.RandomByteIsMasked := by
  refine ⟨encodedAs_byte fun _ _ => ⟨rfl, rfl⟩, fun s x nn => ?_⟩
  have hbits (b : Nat) (_ : b < 8) :
      ((s.dropRandom.setReg x (s.randomByte &&& nn)).reg x).getLsbD b = (s.randomByte.getLsbD b && nn.getLsbD b) := by
    rw [State.reg_setReg_same, BitVec.getLsbD_and]
  have hregs : RegsSame [x] s (s.dropRandom.setReg x (s.randomByte &&& nn)) := fun r hr =>
    (s.dropRandom.reg_setReg_ne _ (List.ne_of_not_mem_cons hr)).trans (s.dropRandom_reg r)
  exact ⟨_, s.randomByte, rfl, rfl, hbits, s.dropRandom_randomBytes, s.dropRandom_randomDraw, hregs,
    exec_sameOutside (i := .rnd x nn) rfl⟩

end Sys2Proof.Machine

namespace Sys2Proof.Machine

/-! ## Draw -/

/-- The encoding line of a rule with two registers X and Y and a nibble N. -/
theorem encodedAs_nibbles {v : Word} {build : Nibble → Nibble → Nibble → Instr}
    (h : ∀ x y n, (build x y n).wellFormed = true ∧ encode (build x y n) = fieldG v ++ x ++ y ++ n) :
    EncodedAs 0xF000 v (fun w => build (fieldX w) (fieldY w) (fieldN w)) := fun w hw => by
  obtain ⟨hwf, henc⟩ := h (fieldX w) (fieldY w) (fieldN w)
  have hword : encode (build (fieldX w) (fieldY w) (fieldN w)) = w :=
    henc.trans (nibbles_append_eq (congrArg BitVec.toNat (fieldG_of_maskF000 hw)) rfl)
  exact (congrArg decodeWord hword.symm).trans (decodeWord_encode hwf)

/-! ### The form of the sprite -/

theorem isWideSprite_iff (s : State) (n : Nibble) : isWideSprite s.mode n = true ↔ WideForm s n := by
  simp [isWideSprite]

theorem spriteBytes_eq (s : State) (n : Nibble) : spriteBytes s.mode n = if WideForm s n then 32 else n.toNat := by
  simp only [spriteBytes, isWideSprite_iff]

theorem spriteWidth_eq (s : State) (n : Nibble) : spriteWidth s.mode n = if WideForm s n then 16 else 8 := by
  simp only [spriteWidth, isWideSprite_iff]

/-- A sprite has bytes unless N = 0 in Low mode (R215). -/
theorem spriteBytes_pos {s : State} {n : Nibble} (h : n ≠ 0 ∨ s.mode = .high) : 0 < spriteBytes s.mode n := by
  rw [spriteBytes_eq]
  split
  · decide
  · next hw =>
    have hn : n ≠ 0 := fun h0 => hw ⟨h0, h.resolve_left (not_not_intro h0)⟩
    exact Nat.pos_of_ne_zero fun h0 => hn (BitVec.eq_of_toNat_eq h0)

/-- No sprite is wider than the screen, so the pixels of one row fall on distinct cells even where they wrap (R38, R210). -/
theorem spriteWidth_le_width (m : Mode) (n : Nibble) : spriteWidth m n ≤ m.width := by
  have hw : spriteWidth m n ≤ 16 := by unfold spriteWidth; split <;> omega
  have hm : 64 ≤ m.width := by cases m <;> decide
  omega

/-- The rows of the sprite at I, top row first (R212, R216). -/
def State.sprite (s : State) (n : Nibble) : List Nat :=
  spriteRows s.mode n ((List.range (spriteBytes s.mode n)).map (fun k => s.byte (s.index + k)))

/-- The set pixels of the sprite at I, drawn at (Vx, Vy) (R210). -/
def State.drawnPixels (s : State) (x y n : Nibble) : List (Nat × Nat) :=
  spritePixels (spriteWidth s.mode n) (s.reg x).toNat (s.reg y).toNat (s.sprite n)

/-- The wide form has 16 rows of two bytes (R212). -/
theorem State.sprite_of_wide {s : State} {n : Nibble} (h : WideForm s n) :
    s.sprite n = wideRows ((List.range 32).map (fun k => s.byte (s.index + k))) := by
  rw [State.sprite, spriteRows, if_pos ((isWideSprite_iff s n).2 h), spriteBytes_eq, if_pos h]

/-- The other form has N rows of one byte (R210). -/
theorem State.sprite_of_not_wide {s : State} {n : Nibble} (h : ¬ WideForm s n) :
    s.sprite n = (List.range n.toNat).map (fun r => (s.byte (s.index + r)).toNat) := by
  rw [State.sprite, spriteRows, if_neg (mt (isWideSprite_iff s n).1 h), spriteBytes_eq, if_neg h, List.map_map]
  rfl

/-- The bits DXYN draws are the set bits of the sprite's rows, in both forms (R212, R216). -/
theorem spriteBit_iff (s : State) (n : Nibble) (r c : Nat) :
    SpriteBit s n r c ↔
      ∃ h : r < (s.sprite n).length, c < spriteWidth s.mode n ∧
        ((s.sprite n)[r]).testBit (spriteWidth s.mode n - 1 - c) = true := by
  by_cases hw : WideForm s n
  · simp only [SpriteBit, spriteWidth_eq, State.sprite_of_wide hw, if_pos hw]
    simp [length_wideRows, getElem_wideRows, State.index, Nat.add_assoc, and_left_comm]
  · simp only [SpriteBit, spriteWidth_eq, State.sprite_of_not_wide hw, if_neg hw]
    simp [State.index, and_left_comm]

/-! ### The cells the sprite covers -/

/-- The clipping rules of R213, one per parameter value. -/
theorem visible_iff (clip : Config.DrawClip) (m : Mode) (x y : Nat) :
    visible clip m x y = true ↔
      match clip with
      | .indexOnly => y * m.width + x < m.width * m.height
      | .perAxis => x < m.width ∧ y < m.height := by
  cases clip with
  | indexOnly => exact decide_eq_true_iff
  | perAxis => simp [visible]

/-- The covered cells are the indices of the visible pixels drawn (R211, R213). -/
theorem spriteCovers_iff (s : State) (x y n : Nibble) (k : Nat) :
    SpriteCovers s x y n k ↔
      ∃ p ∈ s.drawnPixels x y n, visible s.cfg.drawClip s.mode p.1 p.2 = true ∧ p.2 * s.mode.width + p.1 = k := by
  constructor
  · rintro ⟨r, c, hbit, rfl, hvis⟩
    obtain ⟨hr, hc, hset⟩ := (spriteBit_iff s n r c).1 hbit
    exact ⟨((s.reg x).toNat + c, (s.reg y).toNat + r), (mem_spritePixels ..).2 ⟨r, c, hr, hc, hset, rfl⟩,
      (visible_iff ..).2 hvis, rfl⟩
  · rintro ⟨p, hp, hvis, rfl⟩
    obtain ⟨r, c, hr, hc, hset, rfl⟩ := (mem_spritePixels ..).1 hp
    exact ⟨r, c, (spriteBit_iff s n r c).2 ⟨hr, hc, hset⟩, rfl, (visible_iff ..).1 hvis⟩

/-! ### What the drawing leaves -/

theorem State.paint_reg_vf (s : State) (ps : List (Nat × Nat)) :
    (s.paint ps).reg 15 = if (ps.foldl (plot s.cfg.drawClip s.mode) (s.fb, false)).2 then 1 else 0 :=
  s.reg_setReg_same 15 _

/-- Drawing writes no register but VF (R214). -/
theorem State.paint_regsSame (s : State) (ps : List (Nat × Nat)) : RegsSame [15] s (s.paint ps) := fun _ hr =>
  s.reg_setReg_ne _ (List.ne_of_not_mem_cons hr)

/-- The pixels drawn fall on distinct cells, so no cell is flipped twice. -/
theorem State.drawnPixels_distinct (s : State) (x y n : Nibble) :
    (s.drawnPixels x y n).Pairwise (fun p q => p.2 * s.mode.width + p.1 ≠ q.2 * s.mode.width + q.1) :=
  spritePixels_distinct _ _ _ _ (spriteWidth_le_width s.mode n) _

/-- Drawing flips exactly the covered cells (R211). -/
theorem State.lit_paint_drawnPixels (s : State) (x y n : Nibble) (k : Nat) [Decidable (SpriteCovers s x y n k)] :
    (s.paint (s.drawnPixels x y n)).fb.lit k = if SpriteCovers s x y n k then !s.fb.lit k else s.fb.lit k := by
  rw [State.paint_fb, (foldl_plot_distinct (s.drawnPixels_distinct x y n) _).1]
  simp only [spriteCovers_iff]

/-- VF is the collision: a covered cell was lit (R214). -/
theorem State.reg_vf_paint_drawnPixels (s : State) (x y n : Nibble)
    [Decidable (∃ k, SpriteCovers s x y n k ∧ s.fb.lit k = true)] :
    (s.paint (s.drawnPixels x y n)).reg 15 = if ∃ k, SpriteCovers s x y n k ∧ s.fb.lit k = true then 1 else 0 := by
  rw [State.paint_reg_vf]
  congr 1
  rw [(foldl_plot_distinct (s.drawnPixels_distinct x y n) _).2]
  simp only [spriteCovers_iff, eq_iff_iff]
  constructor
  · rintro (h | ⟨p, hp, hvis, hlit⟩)
    · cases h
    · exact ⟨_, ⟨p, hp, hvis, rfl⟩, hlit⟩
  · rintro ⟨k, ⟨p, hp, hvis, rfl⟩, hlit⟩
    exact .inr ⟨p, hp, hvis, hlit⟩

/-! ### The two outcomes of DXYN -/

/-- A sprite that lies in memory, or has no bytes, is drawn (R210, R215). -/
theorem exec_drw_of_in_memory {s : State} {n : Nibble} (x y : Nibble)
    (h : s.index + spriteBytes s.mode n ≤ s.cfg.memSize.bytes ∨ spriteBytes s.mode n = 0) :
    exec (.drw x y n) s = .next (s.paint (s.drawnPixels x y n)) := by
  simp only [exec, execDrw, loadBytes_ok h]
  rfl

/-- A sprite that leaves memory faults at the first byte of it outside (R217, R274). -/
theorem exec_drw_of_outside {s : State} {n : Nibble} (x y : Nibble)
    (h : s.cfg.memSize.bytes < s.index + spriteBytes s.mode n) (hn : 0 < spriteBytes s.mode n) :
    exec (.drw x y n) s = .fault (.memOutOfRange (max s.index s.cfg.memSize.bytes)) := by
  simp only [exec, execDrw, loadBytes_error h hn]

/-- Settles O35: the pixels drawn are the covered cells, each once, so the drawing flips each of them once. -/
theorem drawFlipsCoveredCells : Obligations.DrawFlipsCoveredCells := by
  refine ⟨encodedAs_nibbles fun _ _ _ => ⟨rfl, rfl⟩, fun s x y n h => ?_⟩
  classical
  have hmem : s.index + spriteBytes s.mode n ≤ s.cfg.memSize.bytes ∨ spriteBytes s.mode n = 0 := by
    rw [spriteBytes_eq]
    exact h.imp_right fun ⟨hn, hlow⟩ => by simp [WideForm, hn, hlow]
  have hdraw := exec_drw_of_in_memory x y hmem
  refine ⟨_, hdraw, fun k hk => ?_, fun k hk => ?_, fun hlit => ?_, fun hdark => ?_, rfl, s.paint_regsSame _,
    exec_sameOutside hdraw⟩
  · rw [State.lit_paint_drawnPixels, if_pos hk]
  · rw [State.lit_paint_drawnPixels, if_neg hk]
  · rw [State.reg_vf_paint_drawnPixels, if_pos hlit]
  · rw [State.reg_vf_paint_drawnPixels, if_neg]
    rintro ⟨k, hk, hlit⟩
    simp [hdark k hk] at hlit

/-- Settles O36: the lowest address outside is the greater of I and MEM_SIZE. -/
theorem drawOutsideMemoryFaults : Obligations.DrawOutsideMemoryFaults := by
  intro s x y n hn h
  have hout : s.cfg.memSize.bytes < s.index + spriteBytes s.mode n := by rwa [spriteBytes_eq]
  rw [exec_drw_of_outside x y hout (spriteBytes_pos hn), State.index]
  congr 2
  split <;> omega

end Sys2Proof.Machine

namespace Sys2Proof.Machine

/-! ## Key tests -/

/-- The encoding line of a rule with a register X and a fixed low byte. -/
theorem encodedAs_register {v : Word} {build : Nibble → Instr}
    (h : ∀ x, (build x).wellFormed = true ∧ encode (build x) = fieldG v ++ x ++ fieldNN v) :
    EncodedAs 0xF0FF v (fun w => build (fieldX w)) := fun w hw => by
  obtain ⟨hwf, henc⟩ := h (fieldX w)
  obtain ⟨hg, hnn⟩ := fields_of_maskF0FF hw
  have hword : encode (build (fieldX w)) = w :=
    henc.trans (byte_append_eq (congrArg BitVec.toNat hg) (congrArg BitVec.toNat hnn))
  exact (congrArg decodeWord hword.symm).trans (decodeWord_encode hwf)

/-- A register that holds the number of a key names that key (R232). -/
theorem keyIndex_of_toNat_eq {v : Byte} {k : Fin 16} (h : v.toNat = k.val) : keyIndex v = .ok k := by
  rw [keyIndex_ok (h ▸ k.isLt)]
  exact congrArg Except.ok (Fin.ext h)

/-- EX9E is the skip on its key being down (R230). -/
theorem exec_skp_of_keyIndex_ok {s : State} {x : Nibble} {k : Fin 16} (h : keyIndex (s.reg x) = .ok k) :
    exec (.skp x) s = .next (s.skipIf s.keys[k]) := by
  simp only [exec, execSkp, h, State.keyDown]

/-- EXA1 is the skip on its key being up (R231). -/
theorem exec_sknp_of_keyIndex_ok {s : State} {x : Nibble} {k : Fin 16} (h : keyIndex (s.reg x) = .ok k) :
    exec (.sknp x) s = .next (s.skipIf (!s.keys[k])) := by
  simp only [exec, execSknp, h, State.keyDown]

/-- Both key tests pass on the fault of the key number (R232). -/
theorem exec_keyTests_of_keyIndex_error {s : State} {x : Nibble} {f : Fault} (h : keyIndex (s.reg x) = .error f) :
    exec (.skp x) s = .fault f ∧ exec (.sknp x) s = .fault f := by
  simp only [exec, execSkp, execSknp, h, and_self]

/-- Settles O37: a key number names a key or faults, and on a key both tests are the one skip, on its bit and on the negation. -/
theorem keyTestsSkip : Obligations.KeyTestsSkip := by
  refine ⟨encodedAs_register fun _ => ⟨rfl, rfl⟩, encodedAs_register fun _ => ⟨rfl, rfl⟩,
    fun s x => ⟨fun k hk => ?key, fun hx => ?fault⟩⟩
  case key =>
    have hkey := keyIndex_of_toNat_eq hk
    have hup : (if !s.keys[k] then 2 else 0) = if s.keys[k] then 0 else 2 := by cases s.keys[k] <;> rfl
    exact ⟨exec_skip (exec_skp_of_keyIndex_ok hkey) rfl, exec_skip (exec_sknp_of_keyIndex_ok hkey) hup⟩
  case fault => exact exec_keyTests_of_keyIndex_error (keyIndex_error (by omega))

end Sys2Proof.Machine

namespace Sys2Proof.Machine

/-! ## Timers -/

/-- The timer step beeps exactly when the sound timer is at 1 (R119, R120). -/
theorem State.timerStep_beeps_iff (s : State) : s.timerStep.trace = s.trace ++ [.beep] ↔ s.st.toNat = 1 := by
  rw [timerStep_trace]
  simp only [countDown_reaches_zero_iff]
  split_ifs with h <;> simp [h]

/-- Settles O38: each is one write of a register or a timer, which the timer step then finds. -/
theorem timerInstructions : Obligations.TimerInstructions := by
  refine ⟨encodedAs_register fun _ => ⟨rfl, rfl⟩, encodedAs_register fun _ => ⟨rfl, rfl⟩,
    encodedAs_register fun _ => ⟨rfl, rfl⟩, fun s x => ⟨?read, ?delay, ?sound⟩⟩
  case read => exact ⟨_, rfl, s.reg_setReg_same x s.dt, toNat_countDown s.dt, s.setReg_frame x s.dt⟩
  case delay => exact ⟨_, rfl, rfl, toNat_countDown (s.reg x), exec_sameOutside (i := .ldDtVx x) rfl⟩
  case sound =>
    exact ⟨_, rfl, rfl, toNat_countDown (s.reg x), State.timerStep_beeps_iff { s with st := s.reg x },
      exec_sameOutside (i := .ldStVx x) rfl⟩

/-! ## Key wait -/

/-- FX0A takes a key that is down when every lower key is up (R241). -/
theorem exec_ldVxK_of_lowest_key {s : State} {k : Fin 16} (x : Nibble) (hk : s.keys[k] = true)
    (hlow : ∀ j : Fin 16, j < k → s.keys[j] = false) :
    exec (.ldVxK x) s = .next (s.setReg x (BitVec.ofNat 8 k.val)) := by
  simp only [exec, execLdVxK, (s.firstKey_eq_some k).2 ⟨hk, hlow⟩]

/-- With every key up FX0A sets PC back (R241). -/
theorem exec_ldVxK_of_keys_up {s : State} (x : Nibble) (h : ∀ k : Fin 16, s.keys[k] = false) :
    exec (.ldVxK x) s = .next { s with pc := s.pc - 2 } := by
  simp only [exec, execLdVxK, s.firstKey_eq_none.2 h]

/-- The encoding line of FX0A (R241). -/
theorem encodedAs_ldVxK : EncodedAs 0xF0FF 0xF00A (fun w => .ldVxK (fieldX w)) :=
  encodedAs_register fun _ => ⟨rfl, rfl⟩

/-- Settles O39: a key that is down is one register write, and no key one write of PC. -/
theorem keyWaitTakesLowestKey : Obligations.KeyWaitTakesLowestKey := by
  refine ⟨encodedAs_ldVxK, fun s x => ⟨fun k hk hlow => ?key, fun hup => ?wait⟩⟩
  case key =>
    have hval : ((s.setReg x (BitVec.ofNat 8 k.val)).reg x).toNat = k.val := by
      rw [State.reg_setReg_same, BitVec.toNat_ofNat]
      omega
    exact ⟨_, exec_ldVxK_of_lowest_key x hk hlow, hval, s.setReg_frame x _⟩
  case wait =>
    have hpc : (s.pc - 2).toNat = (s.pc.toNat + 65536 - 2) % 65536 := by bv_omega
    exact ⟨_, exec_ldVxK_of_keys_up x hup, hpc, (s.writePc_unchanged _).sameOutside (.inr (by simp))⟩

/-- A cycle whose execute step takes the advance of PC back again: key sample, fetch and end of the cycle (R111, R322). -/
theorem State.endCycle_waiting_unchanged (s : State) (w : Word) :
    Unchanged [.dt, .st, .keys, .keyInput, .opcode, .redraw, .trace] s
      (State.endCycle { s.sampleKeys.latch w with pc := (s.sampleKeys.latch w).pc - 2 }) := by
  constructor <;> simp

/-- Settles O40: the wait takes the advance of PC back, so what is left of the cycle is its sample, its fetch and its end. -/
theorem keyWaitReexecutesWhileNoKeyIsDown : Obligations.KeyWaitReexecutesWhileNoKeyIsDown := by
  intro s w hl hf hw hword hup
  have hkeys (k : Fin 16) : (s.sampleKeys.latch w).keys[k] = false := by
    simpa only [State.latch_keys, State.sampleKeys_keys] using hup k
  have hdecode : decodeWord w = .ldVxK (fieldX w) := encodedAs_ldVxK w hword
  have hexec := exec_ldVxK_of_keys_up (fieldX w) hkeys
  rw [← hdecode] at hexec
  have hu := s.endCycle_waiting_unchanged w
  exact ⟨_, step_of_exec_next hl hf hw hexec, hu.pc (by simp), by simp [toNat_countDown], by simp [toNat_countDown],
    hu.sameOutside (.inr (by simp))⟩

/-! ## Index arithmetic and fonts -/

/-- FX1E writes only I under `P_FX1E_VF = unaffected` (R248). -/
theorem exec_addI_of_unaffected {s : State} (x : Nibble) (h : s.cfg.fx1eVf = .unaffected) :
    exec (.addI x) s = .next { s with i := BitVec.ofNat 16 (s.i.toNat + (s.reg x).toNat) } := by
  simp only [exec, execAddI, h]

/-- FX1E writes I and the flag under `P_FX1E_VF = overflow` (R248). -/
theorem exec_addI_of_overflow {s : State} (x : Nibble) (h : s.cfg.fx1eVf = .overflow) :
    exec (.addI x) s = .next { s.setReg 15 (flagByte (exceedsMemory s.cfg.memSize (s.i.toNat + (s.reg x).toNat))) with
      i := BitVec.ofNat 16 (s.i.toNat + (s.reg x).toNat) } := by
  simp only [exec, execAddI, h]

/-- The frame of the write of VF and I. -/
theorem State.writeVfI_unchanged (s : State) (b : Byte) (a : Word) : Unchanged [.i, .v] s { s.setReg 15 b with i := a } := by
  constructor <;> simp

theorem exceedsMemory_iff (size : Config.MemSize) (sum : Nat) : exceedsMemory size sum = true ↔ sum > size.bytes - 1 :=
  decide_eq_true_iff

/-- Settles O41, one case per value of the parameter. -/
theorem addIndexWrapsAt16Bits : Obligations.AddIndexWrapsAt16Bits := by
  refine ⟨encodedAs_register fun _ => ⟨rfl, rfl⟩, fun s x => ?_⟩
  cases hp : s.cfg.fx1eVf with
  | unaffected =>
    have hframe := (s.writeI_unchanged (BitVec.ofNat 16 (s.i.toNat + (s.reg x).toNat))).sameOutside (.inr (by simp))
    exact ⟨_, exec_addI_of_unaffected x hp, BitVec.toNat_ofNat .., fun _ => hframe, nofun⟩
  | overflow =>
    refine ⟨_, exec_addI_of_overflow x hp, BitVec.toNat_ofNat .., nofun,
      fun _ => ⟨?flag, (s.setReg_frame 15 _).1, (s.writeVfI_unchanged _ _).sameOutside (.inr (by simp))⟩⟩
    exact (congrArg BitVec.toNat (s.reg_setReg_same 15 _)).trans
      ((flagByte_toNat _).trans (flag_toNat_of_iff (exceedsMemory_iff ..)))

/-- Five bytes a glyph fit 16 bits (R249). -/
theorem wordOf_mul_five_toNat (b : Byte) : (wordOf b * 5).toNat = b.toNat * 5 := by
  rw [BitVec.toNat_mul, wordOf_toNat]
  bv_omega

/-- Ten bytes a glyph from address 80 on fit 16 bits (R250). -/
theorem wordOf_mul_ten_add_toNat (b : Byte) : (wordOf b * 10 + 80).toNat = b.toNat * 10 + 80 := by
  rw [BitVec.toNat_add, BitVec.toNat_mul, wordOf_toNat]
  bv_omega

/-- Settles O42: neither product wraps, and I is all that is written. -/
theorem fontIndexFromRegister : Obligations.FontIndexFromRegister := by
  refine ⟨encodedAs_register fun _ => ⟨rfl, rfl⟩, encodedAs_register fun _ => ⟨rfl, rfl⟩, fun s x => ⟨?small, ?big⟩⟩
  case small => exact ⟨_, rfl, wordOf_mul_five_toNat (s.reg x), exec_sameOutside (i := .ldF x) rfl⟩
  case big => exact ⟨_, rfl, wordOf_mul_ten_add_toNat (s.reg x), exec_sameOutside (i := .ldHf x) rfl⟩

/-! ## Blocks in memory

FX33, FX55 and FX65 move a block of bytes from I on. -/

/-- The byte `k` places into a block that was put is byte `k` of the block. -/
theorem State.byte_putAll_add (s : State) (a : Nat) {bs : List Byte} {k : Nat} (hk : k < bs.length) :
    State.byte { s with mem := s.mem.putAll a bs } (a + k) = bs[k] := by
  rw [State.byte_putAll, dif_pos ⟨Nat.le_add_right a k, by omega⟩]
  simp only [Nat.add_sub_cancel_left]

/-- A block that was put leaves every byte outside it. -/
theorem State.putAll_bytesSameOutside (s : State) (a : Nat) (bs : List Byte) :
    BytesSameOutside a bs.length s { s with mem := s.mem.putAll a bs } := fun b hb => by
  rw [State.byte_putAll, dif_neg (by omega)]

/-- The increment quirk moves I on by X + 1 modulo 2^16 (R252, R253). -/
theorem State.bumpIndex_i_toNat (s : State) (x : Nibble) :
    (s.bumpIndex x).i.toNat = if s.cfg.quirks.incI then (s.i.toNat + x.toNat + 1) % 65536 else s.i.toNat := by
  have hx : (x.setWidth 16).toNat = x.toNat := BitVec.toNat_setWidth_of_le (by decide)
  rw [State.bumpIndex_i]
  split
  · bv_omega
  · rfl

/-- The lowest address of a block outside memory, as the statements write it (R274). -/
theorem memOutOfRange_lowest (s : State) :
    Fault.memOutOfRange (max s.index s.cfg.memSize.bytes) =
      .memOutOfRange (if s.cfg.memSize.bytes ≤ s.i.toNat then s.i.toNat else s.cfg.memSize.bytes) :=
  congrArg Fault.memOutOfRange (max_def' _ _)

/-! ### BCD -/

/-- FX33 puts its digits when they lie in memory (R251). -/
theorem exec_ldB_of_in_memory {s : State} (x : Nibble) (h : s.i.toNat + 2 < s.cfg.memSize.bytes) :
    exec (.ldB x) s = .next { s with mem := s.mem.putAll s.i.toNat (decimalDigits (s.reg x)) } := by
  simp only [exec, execLdB, State.index, storeBytes_ok (bs := decimalDigits (s.reg x)) (.inl h), orFault]

/-- FX33 faults at the first address outside memory (R251). -/
theorem exec_ldB_of_outside {s : State} (x : Nibble) (h : s.cfg.memSize.bytes ≤ s.i.toNat + 2) :
    exec (.ldB x) s = .fault (.memOutOfRange (max s.index s.cfg.memSize.bytes)) := by
  have hout : s.cfg.memSize.bytes < s.index + (decimalDigits (s.reg x)).length := Nat.lt_succ_of_le h
  simp only [exec, execLdB, storeBytes_error hout (List.cons_ne_nil _ _), orFault]

/-- Settles O43: three bytes are put, each a digit. -/
theorem bcdStoresDigits : Obligations.BcdStoresDigits := by
  refine ⟨encodedAs_register fun _ => ⟨rfl, rfl⟩, fun s x => ⟨fun h => ?store, fun h => ?fault⟩⟩
  case store =>
    have hexec := exec_ldB_of_in_memory x h
    have hdigit (k : Nat) (hk : k < 3) := s.byte_putAll_add s.i.toNat (bs := decimalDigits (s.reg x)) hk
    have hbyte {n : Nat} (hn : n < 256) : (BitVec.ofNat 8 n).toNat = n := Nat.mod_eq_of_lt hn
    refine ⟨_, hexec, ?_, ?_, ?_, s.putAll_bytesSameOutside _ (decimalDigits (s.reg x)), exec_sameOutside hexec⟩
    · exact (congrArg BitVec.toNat (hdigit 0 (by decide))).trans (hbyte (by omega))
    · exact (congrArg BitVec.toNat (hdigit 1 (by decide))).trans (hbyte (by omega))
    · exact (congrArg BitVec.toNat (hdigit 2 (by decide))).trans (hbyte (by omega))
  case fault => rw [exec_ldB_of_outside x h, memOutOfRange_lowest]

/-! ### Registers to and from memory -/

/-- FX55 puts V0 to Vx when the block lies in memory (R252). -/
theorem exec_ldMemVx_of_in_memory {s : State} {x : Nibble} (h : s.i.toNat + x.toNat < s.cfg.memSize.bytes) :
    exec (.ldMemVx x) s = .next (State.bumpIndex { s with mem := s.mem.putAll s.i.toNat (s.regsUpTo x) } x) := by
  have hin : s.i.toNat + (s.regsUpTo x).length ≤ s.cfg.memSize.bytes := by rwa [State.length_regsUpTo]
  simp only [exec, execLdMemVx, State.index, storeBytes_ok (.inl hin)]

/-- FX55 faults at the lowest address outside memory (R252, R274). -/
theorem exec_ldMemVx_of_outside {s : State} {x : Nibble} (h : s.cfg.memSize.bytes ≤ s.i.toNat + x.toNat) :
    exec (.ldMemVx x) s = .fault (.memOutOfRange (max s.index s.cfg.memSize.bytes)) := by
  have hout : s.cfg.memSize.bytes < s.index + (s.regsUpTo x).length := by
    rw [State.length_regsUpTo]
    exact Nat.lt_succ_of_le h
  have hne : s.regsUpTo x ≠ [] := List.ne_nil_of_length_eq_add_one (s.length_regsUpTo x)
  simp only [exec, execLdMemVx, storeBytes_error hout hne]

/-- Settles O44: byte `k` of the block put is Vk. -/
theorem blockStoreCopiesRegisters : Obligations.BlockStoreCopiesRegisters := by
  refine ⟨encodedAs_register fun _ => ⟨rfl, rfl⟩, fun s x => ⟨fun h => ?store, fun h => ?fault⟩⟩
  case store =>
    have hexec := exec_ldMemVx_of_in_memory h
    have hout := s.putAll_bytesSameOutside s.i.toNat (s.regsUpTo x)
    rw [State.length_regsUpTo] at hout
    refine ⟨_, hexec, fun k hk => ?_, hout, State.bumpIndex_i_toNat _ x, exec_sameOutside hexec⟩
    have hlt : k.toNat < (s.regsUpTo x).length := by
      rw [State.length_regsUpTo]
      omega
    exact (s.byte_putAll_add s.i.toNat hlt).trans (s.getElem_regsUpTo x k hlt)
  case fault => rw [exec_ldMemVx_of_outside h, memOutOfRange_lowest]

/-- The bytes FX65 reads (R253). -/
def State.blockAtIndex (s : State) (x : Nibble) : List Byte :=
  (List.range (x.toNat + 1)).map (fun k => s.byte (s.i.toNat + k))

/-- A register after the bytes at I are loaded (R253). -/
theorem State.reg_loadRegs_blockAtIndex (s : State) (x k : Nibble) :
    (s.loadRegs (s.blockAtIndex x)).reg k = if k.toNat ≤ x.toNat then s.byte (s.i.toNat + k.toNat) else s.reg k := by
  simp [State.reg_loadRegs, State.blockAtIndex]

/-- FX65 loads V0 to Vx when the block lies in memory (R253). -/
theorem exec_ldVxMem_of_in_memory {s : State} {x : Nibble} (h : s.i.toNat + x.toNat < s.cfg.memSize.bytes) :
    exec (.ldVxMem x) s = .next ((s.loadRegs (s.blockAtIndex x)).bumpIndex x) := by
  simp only [exec, execLdVxMem, State.index, loadBytes_ok (n := x.toNat + 1) (.inl h), State.blockAtIndex]

/-- FX65 faults at the lowest address outside memory (R253, R274). -/
theorem exec_ldVxMem_of_outside {s : State} {x : Nibble} (h : s.cfg.memSize.bytes ≤ s.i.toNat + x.toNat) :
    exec (.ldVxMem x) s = .fault (.memOutOfRange (max s.index s.cfg.memSize.bytes)) := by
  have hout : s.cfg.memSize.bytes < s.index + (x.toNat + 1) := Nat.lt_succ_of_le h
  simp only [exec, execLdVxMem, loadBytes_error hout (Nat.succ_pos _)]

/-- Settles O45: byte `k` of the block read goes to Vk. -/
theorem blockLoadFillsRegisters : Obligations.BlockLoadFillsRegisters := by
  refine ⟨encodedAs_register fun _ => ⟨rfl, rfl⟩, fun s x => ⟨fun h => ?load, fun h => ?fault⟩⟩
  case load =>
    have hexec := exec_ldVxMem_of_in_memory h
    exact ⟨_, hexec, s.reg_loadRegs_blockAtIndex x, State.bumpIndex_i_toNat _ x, exec_sameOutside hexec⟩
  case fault => rw [exec_ldVxMem_of_outside h, memOutOfRange_lowest]

/-! ## RPL -/

theorem rplInRange_iff (x : Nibble) : rplInRange x = true ↔ x.toNat ≤ 7 :=
  decide_eq_true_iff

/-- FX75 and FX85 transfer when X is at most 7 (R254, R255). -/
theorem exec_rpl_of_in_range {x : Nibble} (s : State) (h : x.toNat ≤ 7) :
    exec (.ldRVx x) s = .next (s.loadRpl (s.regsUpTo x)) ∧ exec (.ldVxR x) s = .next (s.loadRegs (s.rplUpTo x)) := by
  simp only [exec, execLdRVx, execLdVxR, (rplInRange_iff x).2 h, if_true, and_self]

/-- Both fault when X is above 7 (R256). -/
theorem exec_rpl_of_out_of_range {x : Nibble} (s : State) (h : 7 < x.toNat) :
    exec (.ldRVx x) s = .fault (.rplIndexOutOfRange x) ∧ exec (.ldVxR x) s = .fault (.rplIndexOutOfRange x) := by
  have hx : ¬ rplInRange x = true := mt (rplInRange_iff x).1 (Nat.not_le.2 h)
  exact ⟨if_neg hx, if_neg hx⟩

/-- The RPL bank after V0 to Vx are saved (R254). -/
theorem State.rpl_loadRpl_regsUpTo (s : State) (x : Nibble) (k : Fin 8) :
    (s.loadRpl (s.regsUpTo x)).rpl[k] = if k.val ≤ x.toNat then s.reg (BitVec.ofNat 4 k.val) else s.rpl[k] := by
  have hk : (BitVec.ofNat 4 k.val).toNat = k.val := Nat.mod_eq_of_lt (by omega)
  have hreg (h : k.val < (s.regsUpTo x).length) : (s.regsUpTo x)[k.val] = s.reg (BitVec.ofNat 4 k.val) := by
    simpa only [hk] using s.getElem_regsUpTo x (BitVec.ofNat 4 k.val) (by rwa [hk])
  rw [Fin.getElem_fin, State.rpl_loadRpl]
  simp only [hreg, State.length_regsUpTo, Nat.lt_succ_iff, dite_eq_ite, Fin.getElem_fin]

/-- A register after RPL[0] to RPL[x] are restored (R255). -/
theorem State.reg_loadRegs_rplUpTo {x : Nibble} (s : State) (hx : x.toNat ≤ 7) (r : Nibble) :
    (s.loadRegs (s.rplUpTo x)).reg r =
      if h : r.toNat ≤ x.toNat then s.rpl[r.toNat]'(by omega) else s.reg r := by
  have hlen : r.toNat < (s.rplUpTo x).length ↔ r.toNat ≤ x.toNat := by
    rw [State.length_rplUpTo]
    omega
  simp only [State.reg_loadRegs, State.getElem_rplUpTo, hlen]

/-- Settles O46: both transfers move entry `k` to entry `k`, for `k` up to X. -/
theorem rplSaveAndRestore : Obligations.RplSaveAndRestore := by
  refine ⟨encodedAs_register fun _ => ⟨rfl, rfl⟩, encodedAs_register fun _ => ⟨rfl, rfl⟩,
    fun s x => ⟨fun hx => ?transfer, exec_rpl_of_out_of_range s⟩⟩
  obtain ⟨hsave, hrestore⟩ := exec_rpl_of_in_range s hx
  refine ⟨⟨_, hsave, s.rpl_loadRpl_regsUpTo x, exec_sameOutside hsave⟩,
    ⟨_, hrestore, fun k hk => ?_, fun r hr => ?_, exec_sameOutside hrestore⟩⟩
  · have hval : (BitVec.ofNat 4 k.val).toNat = k.val := Nat.mod_eq_of_lt (by omega)
    simp only [s.reg_loadRegs_rplUpTo hx, hval, hk, dite_true, Fin.getElem_fin]
  · rw [s.reg_loadRegs_rplUpTo hx, dif_neg (by omega)]

end Sys2Proof.Machine

namespace Sys2Proof.Machine

/-! ## Reset and the loader -/

/-- A state with a cleared screen, an empty stack and no redraw pending meets the invariant when its memory and its trace do. -/
theorem State.inv_of_cleared {s : State} (hmem : s.MemoryOk) (hfb : s.fb = []) (hsp : s.sp = 0) (hredraw : s.redraw = false)
    (htrace : s.trace.all Event.wf = true) : s.Inv := by
  have hle : s.sp ≤ 16 := by
    rw [hsp]
    decide
  exact (State.inv_iff s).2 ⟨⟨hmem, State.screenOk_of_fb_nil hfb, hle, htrace⟩, hredraw⟩

/-- Settles O3: at reset memory and the trace list nothing, and screen and stack are clear. -/
theorem resetMeetsCoreInvariant : Obligations.ResetMeetsCoreInvariant :=
  State.inv_of_cleared ⟨State.reset_mem_wf, rfl⟩ rfl rfl rfl rfl

/-- What a successful load leaves (R305): Init, then the image at 0x200 and LOADED. -/
def State.withImage (s : State) (image : List Byte) : State :=
  { s.init with mem := s.init.mem.putAll 0x200 image, loaded := true }

/-- The size check of the loader, as a sum: no memory is smaller than 0x200 bytes (R305). -/
theorem romFits_iff (size : Config.MemSize) (image : List Byte) :
    romFits size image = true ↔ image.length + 0x200 ≤ size.bytes := by
  have hsize : 0x200 ≤ size.bytes := by cases size <;> decide
  exact decide_eq_true_iff.trans (Nat.le_sub_iff_add_le hsize)

/-- An image that fits is loaded (R305). -/
theorem loadGame_of_fits {s : State} {image : List Byte} (h : image.length + 0x200 ≤ s.cfg.memSize.bytes) :
    loadGame image s = (.ok, s.withImage image) :=
  if_pos ((romFits_iff _ image).2 h)

/-- An image that does not fit leaves the state (R306). -/
theorem loadGame_of_too_large {s : State} {image : List Byte} (h : s.cfg.memSize.bytes < image.length + 0x200) :
    loadGame image s = (.romTooLarge, s) :=
  if_neg (mt (romFits_iff _ image).1 (Nat.not_le.2 h))

/-- A load is successful only on an image that fits, so it leaves `withImage` (R305, R306). -/
theorem eq_withImage_of_loadGame {s t : State} {image : List Byte} (h : loadGame image s = (.ok, t)) : t = s.withImage image := by
  by_cases hfit : image.length + 0x200 ≤ s.cfg.memSize.bytes
  · rw [loadGame_of_fits hfit] at h
    exact (congrArg Prod.snd h).symm
  · rw [loadGame_of_too_large (Nat.not_le.1 hfit)] at h
    cases h

/-- A load changes nothing of what Init leaves but memory and LOADED (R305). -/
theorem State.withImage_unchanged (s : State) (image : List Byte) : Unchanged [.mem, .loaded] s.init (s.withImage image) := by
  constructor <;> simp [State.withImage]

/-- Byte `k` of the image lies at `0x200 + k` after a load (R305). -/
theorem State.byte_withImage_add (s : State) {image : List Byte} {k : Nat} (hk : k < image.length) :
    (s.withImage image).byte (0x200 + k) = image[k] :=
  State.byte_putAll_add { s.init with loaded := true } 0x200 hk

/-- Outside the image no byte is stored after a load, so memory reads as its reset contents (R62, R305). -/
theorem State.get?_withImage_mem_outside (s : State) {image : List Byte} {a : Nat} (ha : a < 0x200 ∨ 0x200 + image.length ≤ a) :
    (s.withImage image).mem.get? a = none := by
  rw [State.withImage, Memory.get?_putAll, dif_neg (by omega)]
  rfl

/-- A load leaves every byte outside the image as Init does (R305). -/
theorem State.withImage_bytesSameOutside (s : State) (image : List Byte) :
    BytesSameOutside 0x200 image.length s.init (s.withImage image) :=
  State.putAll_bytesSameOutside { s.init with loaded := true } 0x200 image

/-- The loaded core meets the invariant when the image ends inside memory (R307) and the frames emitted before were proper. -/
theorem State.withImage_inv {s : State} {image : List Byte} (h : image.length + 0x200 ≤ s.cfg.memSize.bytes)
    (htrace : s.trace.all Event.wf = true) : (s.withImage image).Inv := by
  have hend : 0x200 + image.length ≤ s.cfg.memSize.bytes := by omega
  exact State.inv_of_cleared ⟨Memory.wf_putAll s.init_mem_wf _ _, Memory.below_putAll rfl hend⟩ rfl rfl rfl htrace

/-- Settles O55: the image is one block put after Init, and every byte outside it is its font or its draw. -/
theorem loadGameCopiesImage : Obligations.LoadGameCopiesImage := by
  refine fun s image => ⟨fun h => ⟨s.withImage image, loadGame_of_fits h, rfl, rfl, ?_⟩, loadGame_of_too_large⟩
  have hunlisted {a : Nat} := s.get?_withImage_mem_outside (image := image) (a := a)
  exact ⟨fun _ => s.byte_withImage_add, s.withImage_bytesSameOutside image, rfl,
    fun _ ha hout => State.byte_unlisted (hunlisted hout) ha, rfl,
    fun _ => State.byte_unlisted_fontLo (hunlisted (by omega)), fun _ => State.byte_unlisted_fontHi (hunlisted (by omega)),
    (s.withImage_unchanged image).sameOutside (.inl (by simp)), State.withImage_inv h⟩

/-- Settles O56: what Init clears, the load leaves. -/
theorem loadedCoreStartsClear : Obligations.LoadedCoreStartsClear := by
  intro s t image h
  obtain rfl := eq_withImage_of_loadGame h
  exact ⟨rfl, s.init_reg, fun _ => ⟨Vector.getElem_replicate _, Vector.getElem_replicate _⟩, fun _ => rfl⟩

end Sys2Proof.Machine
